-- ==== Sys2Proof/Word.lean ====
section
/-! DEFINITION. The two word types of FBR: the 16-bit word of the command stream, of a surface cell and of `RESULT`
(rules R35, R62, R83), and the 8-bit byte of the SPI output, of a string and of a glyph row (rules R63, R84, R160).
What the manual treats as a mathematical integer (rule R11) is an `Int` or a `Nat`, never one of these. -/

namespace Sys2Proof

/-- One 16-bit word: a command word (R62), a cell (R35), a colour (R14). -/
abbrev Word := BitVec 16

/-- One byte of an SPI transaction, of a string operand or of a glyph row. -/
abbrev Byte := BitVec 8

end Sys2Proof
end

