-- ==== Sys2Proof/Syntax.lean ====
section
/-! DEFINITION. The command set as syntax: one constructor of `Instr` for each row of spec/opcode_table.json (R87), with the
row's operands in the row's order (R83), and the names the encoding is written with: `Opcode`, `Format` (R82) and `AuxRule`. -/

namespace Sys2Proof

/-- One FBR command with its operands. Coordinates, sizes, colours and code points are whole words (R83). A string command
holds its `n` bytes (R84); the scaled forms hold the raw scale of `aux` (R85); PACK_RGB565's channels are the 8 bits R89
leaves; the rotation has 2 bits and the inversion value 1, all that R90 leaves legal. -/
inductive Instr where
  | fbInit
  | fbRelease
  | fbSetPixel (x y c : Word)
  | fbGetPixel (x y : Word)
  | fbDrawLine (x0 y0 x1 y1 c : Word)
  | fbDrawRect (x y w h c : Word)
  | fbFillRect (x y w h c : Word)
  | fbDrawCircle (cx cy r c : Word)
  | fbFillCircle (cx cy r c : Word)
  | fbDrawChar (x y cpt fg bg : Word)
  | fbDrawCharScaled (x y cpt fg bg : Word) (scale : Byte)
  | fbDrawString (x y fg bg : Word) (bytes : List Byte)
  | fbDrawStringScaled (x y fg bg : Word) (bytes : List Byte) (scale : Byte)
  | fbDrawStringUtf8 (x y fg bg : Word) (bytes : List Byte)
  | fbDrawStringUtf8Scaled (x y fg bg : Word) (bytes : List Byte) (scale : Byte)
  | packRgb565 (r g b : Byte)
  | flush
  | flushRegion (x y w h : Word)
  | panelWritePixel (x y c : Word)
  | ctrlInit
  | bindFb
  | unbindFb
  | setRotation (rotation : BitVec 2)
  | setInversion (on : Bool)
deriving DecidableEq, Repr

/-- The 24 opcodes of R87, by the name of their command. -/
inductive Opcode where
  | fbInit | fbRelease | fbSetPixel | fbGetPixel
  | fbDrawLine | fbDrawRect | fbFillRect | fbDrawCircle | fbFillCircle
  | fbDrawChar | fbDrawCharScaled
  | fbDrawString | fbDrawStringScaled | fbDrawStringUtf8 | fbDrawStringUtf8Scaled
  | packRgb565 | flush | flushRegion | panelWritePixel
  | ctrlInit | bindFb | unbindFb | setRotation | setInversion
deriving DecidableEq, Repr

/-- The six packet formats of R82. -/
inductive Format where
  | H | H2 | H3 | H4 | H5 | S
deriving DecidableEq, Repr

/-- What an opcode's `aux` field may hold: the `aux` column of R87 with R88 and R90. -/
inductive AuxRule where
  /-- `aux` must be 0 (R88). -/
  | zero
  /-- every value is legal: a raw scale (R85). -/
  | scale
  /-- 0..3 (R90). -/
  | rotation
  /-- 0 or 1 (R90). -/
  | inversion
deriving DecidableEq, Repr

end Sys2Proof
end

