-- ==== Sys2Proof/WellFormed.lean ====
section
/-! DEFINITION. The one check an instruction term needs beside its types: a string's byte count must fit the 16-bit operand
word `n` (R82: 0..65535). Everything else R88 to R90 make illegal cannot be written as a term of `Instr`. -/

namespace Sys2Proof

/-- A string operand's length fits `n` (R82). -/
def stringFits (bytes : List Byte) : Bool := bytes.length < 65536

/-- The instruction has an encoding (R82, R84). -/
def Instr.wf : Instr → Bool
  | .fbInit => true
  | .fbRelease => true
  | .fbSetPixel _ _ _ => true
  | .fbGetPixel _ _ => true
  | .fbDrawLine _ _ _ _ _ => true
  | .fbDrawRect _ _ _ _ _ => true
  | .fbFillRect _ _ _ _ _ => true
  | .fbDrawCircle _ _ _ _ => true
  | .fbFillCircle _ _ _ _ => true
  | .fbDrawChar _ _ _ _ _ => true
  | .fbDrawCharScaled _ _ _ _ _ _ => true
  | .fbDrawString _ _ _ _ bytes => stringFits bytes
  | .fbDrawStringScaled _ _ _ _ bytes _ => stringFits bytes
  | .fbDrawStringUtf8 _ _ _ _ bytes => stringFits bytes
  | .fbDrawStringUtf8Scaled _ _ _ _ bytes _ => stringFits bytes
  | .packRgb565 _ _ _ => true
  | .flush => true
  | .flushRegion _ _ _ _ => true
  | .panelWritePixel _ _ _ => true
  | .ctrlInit => true
  | .bindFb => true
  | .unbindFb => true
  | .setRotation _ => true
  | .setInversion _ => true

end Sys2Proof
end

