-- ==== Sys2Proof/Decode.lean ====
section
/-! DEFINITION. The command encoding of 30_encoding.md: the opcode map (R87), packet lengths (R86), legality (R88 to R93),
string bytes (R84), the decoder, total on any list of words, and after it the encoder written from the same tables. -/

namespace Sys2Proof

/-- Bits [15:8] of a word: `opc` of a header (R81), an odd string byte (R84), the first byte sent of a cell (R63). -/
def hiByte (w : Word) : Byte := w.extractLsb' 8 8

/-- Bits [7:0] of a word: `aux` of a header (R81), an even string byte (R84), the second byte sent of a cell (R63). -/
def loByte (w : Word) : Byte := w.extractLsb' 0 8

/-- The opcode map's `opc` column (R87). -/
def opcodeByte : Opcode → Byte
  | .fbInit => 0x01
  | .fbRelease => 0x02
  | .fbSetPixel => 0x03
  | .fbGetPixel => 0x04
  | .fbDrawLine => 0x10
  | .fbDrawRect => 0x11
  | .fbFillRect => 0x12
  | .fbDrawCircle => 0x13
  | .fbFillCircle => 0x14
  | .fbDrawChar => 0x20
  | .fbDrawCharScaled => 0x21
  | .fbDrawString => 0x22
  | .fbDrawStringScaled => 0x23
  | .fbDrawStringUtf8 => 0x24
  | .fbDrawStringUtf8Scaled => 0x25
  | .packRgb565 => 0x30
  | .flush => 0x31
  | .flushRegion => 0x32
  | .panelWritePixel => 0x33
  | .ctrlInit => 0x40
  | .bindFb => 0x41
  | .unbindFb => 0x42
  | .setRotation => 0x43
  | .setInversion => 0x44

/-- The opcode map's `format` column (R87). -/
def opcodeFormat : Opcode → Format
  | .fbInit => .H
  | .fbRelease => .H
  | .fbSetPixel => .H3
  | .fbGetPixel => .H2
  | .fbDrawLine => .H5
  | .fbDrawRect => .H5
  | .fbFillRect => .H5
  | .fbDrawCircle => .H4
  | .fbFillCircle => .H4
  | .fbDrawChar => .H5
  | .fbDrawCharScaled => .H5
  | .fbDrawString => .S
  | .fbDrawStringScaled => .S
  | .fbDrawStringUtf8 => .S
  | .fbDrawStringUtf8Scaled => .S
  | .packRgb565 => .H3
  | .flush => .H
  | .flushRegion => .H4
  | .panelWritePixel => .H3
  | .ctrlInit => .H
  | .bindFb => .H
  | .unbindFb => .H
  | .setRotation => .H
  | .setInversion => .H

/-- The opcode map's `aux` column (R87, R88, R90). -/
def opcodeAux : Opcode → AuxRule
  | .fbDrawCharScaled => .scale
  | .fbDrawStringScaled => .scale
  | .fbDrawStringUtf8Scaled => .scale
  | .setRotation => .rotation
  | .setInversion => .inversion
  | .fbInit => .zero
  | .fbRelease => .zero
  | .fbSetPixel => .zero
  | .fbGetPixel => .zero
  | .fbDrawLine => .zero
  | .fbDrawRect => .zero
  | .fbFillRect => .zero
  | .fbDrawCircle => .zero
  | .fbFillCircle => .zero
  | .fbDrawChar => .zero
  | .fbDrawString => .zero
  | .fbDrawStringUtf8 => .zero
  | .packRgb565 => .zero
  | .flush => .zero
  | .flushRegion => .zero
  | .panelWritePixel => .zero
  | .ctrlInit => .zero
  | .bindFb => .zero
  | .unbindFb => .zero

/-- The opcodes in the order of R87's rows. -/
def allOpcodes : List Opcode :=
  [.fbInit, .fbRelease, .fbSetPixel, .fbGetPixel, .fbDrawLine, .fbDrawRect, .fbFillRect, .fbDrawCircle]
  ++ [.fbFillCircle, .fbDrawChar, .fbDrawCharScaled, .fbDrawString, .fbDrawStringScaled, .fbDrawStringUtf8]
  ++ [.fbDrawStringUtf8Scaled, .packRgb565, .flush, .flushRegion, .panelWritePixel, .ctrlInit, .bindFb]
  ++ [.unbindFb, .setRotation, .setInversion]

/-- The opcode an `opc` byte names, `none` for the reserved bytes of R91. -/
def opcodeOf (opc : Byte) : Option Opcode := allOpcodes.find? fun op => opcodeByte op == opc

/-- `aux` is legal under the opcode's rule (R88, R90; R85 makes every scale legal). -/
def auxLegal (rule : AuxRule) (aux : Byte) : Bool :=
  match rule with
  | .zero => aux == 0
  | .scale => true
  | .rotation => aux.toNat ≤ 3
  | .inversion => aux.toNat ≤ 1

/-- Packet length in words (R82, R86); `n` is read for format `S` only. -/
def packetLen : Format → Nat → Nat
  | .H, _ => 1
  | .H2, _ => 3
  | .H3, _ => 4
  | .H4, _ => 5
  | .H5, _ => 6
  | .S, n => 6 + (n + 1) / 2

/-- Why a list of words is not a command. The first two and the last raise IllegalCommand (R88 to R91); the other two mean
that the host has not supplied the packet's words (R98). -/
inductive DecodeError where
  /-- No word at all: the stream is at its end. -/
  | noWords
  /-- The header's opcode is not listed in R87 (R91). -/
  | reservedOpcode
  /-- The header's `aux` is illegal for its opcode (R88, R90). -/
  | illegalAux
  /-- The packet's words are not all there (R98). -/
  | shortPacket
  /-- PACK_RGB565 with a nonzero reserved operand bit (R89). -/
  | reservedBits
deriving DecidableEq, Repr

/-- The `n` string bytes packed two to a word, first byte in bits [7:0] (R84); `none` when words are missing. -/
def stringBytes : Nat → List Word → Option (List Byte)
  | 0, _ => some []
  | 1, w :: _ => some [loByte w]
  | n + 2, w :: ws => (stringBytes n ws).map fun rest => loByte w :: hiByte w :: rest
  | _ + 1, [] => none

/-- Two operand words (format `H2`). -/
def operands2 (k : Word → Word → Except DecodeError Instr) : List Word → Except DecodeError Instr
  | a :: b :: _ => k a b
  | _ => .error .shortPacket

/-- Three operand words (format `H3`). -/
def operands3 (k : Word → Word → Word → Except DecodeError Instr) : List Word → Except DecodeError Instr
  | a :: b :: c :: _ => k a b c
  | _ => .error .shortPacket

/-- Four operand words (format `H4`). -/
def operands4 (k : Word → Word → Word → Word → Except DecodeError Instr) : List Word → Except DecodeError Instr
  | a :: b :: c :: d :: _ => k a b c d
  | _ => .error .shortPacket

/-- Five operand words (format `H5`). -/
def operands5 (k : Word → Word → Word → Word → Word → Except DecodeError Instr) : List Word → Except DecodeError Instr
  | a :: b :: c :: d :: e :: _ => k a b c d e
  | _ => .error .shortPacket

/-- `x, y, fg, bg, n` and the packed bytes (format `S`, R82, R84). -/
def operandsS (k : Word → Word → Word → Word → List Byte → Except DecodeError Instr) :
    List Word → Except DecodeError Instr
  | x :: y :: fg :: bg :: n :: rest =>
    match stringBytes n.toNat rest with
    | some bytes => k x y fg bg bytes
    | none => .error .shortPacket
  | _ => .error .shortPacket

/-- PACK_RGB565's operand words: bits [15:8] of each must be 0 (R89). -/
def packChannels (r g b : Word) : Except DecodeError Instr :=
  if hiByte r == 0 && hiByte g == 0 && hiByte b == 0 then .ok (.packRgb565 (loByte r) (loByte g) (loByte b))
  else .error .reservedBits

/-- The operand words of a packet whose header is legal (R80, R83, R84, R89). -/
def decodeOperands (op : Opcode) (aux : Byte) (ws : List Word) : Except DecodeError Instr :=
  match op with
  | .fbInit => .ok .fbInit
  | .fbRelease => .ok .fbRelease
  | .fbSetPixel => operands3 (fun x y c => .ok (.fbSetPixel x y c)) ws
  | .fbGetPixel => operands2 (fun x y => .ok (.fbGetPixel x y)) ws
  | .fbDrawLine => operands5 (fun x0 y0 x1 y1 c => .ok (.fbDrawLine x0 y0 x1 y1 c)) ws
  | .fbDrawRect => operands5 (fun x y w h c => .ok (.fbDrawRect x y w h c)) ws
  | .fbFillRect => operands5 (fun x y w h c => .ok (.fbFillRect x y w h c)) ws
  | .fbDrawCircle => operands4 (fun cx cy r c => .ok (.fbDrawCircle cx cy r c)) ws
  | .fbFillCircle => operands4 (fun cx cy r c => .ok (.fbFillCircle cx cy r c)) ws
  | .fbDrawChar => operands5 (fun x y cpt fg bg => .ok (.fbDrawChar x y cpt fg bg)) ws
  | .fbDrawCharScaled => operands5 (fun x y cpt fg bg => .ok (.fbDrawCharScaled x y cpt fg bg aux)) ws
  | .fbDrawString => operandsS (fun x y fg bg bytes => .ok (.fbDrawString x y fg bg bytes)) ws
  | .fbDrawStringScaled => operandsS (fun x y fg bg bytes => .ok (.fbDrawStringScaled x y fg bg bytes aux)) ws
  | .fbDrawStringUtf8 => operandsS (fun x y fg bg bytes => .ok (.fbDrawStringUtf8 x y fg bg bytes)) ws
  | .fbDrawStringUtf8Scaled => operandsS (fun x y fg bg bytes => .ok (.fbDrawStringUtf8Scaled x y fg bg bytes aux)) ws
  | .packRgb565 => operands3 packChannels ws
  | .flush => .ok .flush
  | .flushRegion => operands4 (fun x y w h => .ok (.flushRegion x y w h)) ws
  | .panelWritePixel => operands3 (fun x y c => .ok (.panelWritePixel x y c)) ws
  | .ctrlInit => .ok .ctrlInit
  | .bindFb => .ok .bindFb
  | .unbindFb => .ok .unbindFb
  | .setRotation => .ok (.setRotation (aux.extractLsb' 0 2))
  | .setInversion => .ok (.setInversion (aux.getLsbD 0))

/-- The decoder: reads one packet from the front of a list of words, checking in R93's order: the opcode, then `aux`, then
(once the whole packet is there, R80) the reserved operand bits. -/
def decode : List Word → Except DecodeError Instr
  | [] => .error .noWords
  | hdr :: rest =>
    match opcodeOf (hiByte hdr) with
    | none => .error .reservedOpcode
    | some op =>
      if auxLegal (opcodeAux op) (loByte hdr) then decodeOperands op (loByte hdr) rest
      else .error .illegalAux

/-! The encoder. -/

/-- A word from its high and low byte. -/
def wordOf (hi lo : Byte) : Word := hi ++ lo

/-- String bytes packed two to a word (R84), with `pad` in the unread bits [15:8] of an odd string's last word. -/
def packString (pad : Byte) : List Byte → List Word
  | [] => []
  | [b] => [wordOf pad b]
  | b0 :: b1 :: rest => wordOf b1 b0 :: packString pad rest

/-- The opcode of an instruction (R87). -/
def Instr.opcode : Instr → Opcode
  | .fbInit => .fbInit
  | .fbRelease => .fbRelease
  | .fbSetPixel _ _ _ => .fbSetPixel
  | .fbGetPixel _ _ => .fbGetPixel
  | .fbDrawLine _ _ _ _ _ => .fbDrawLine
  | .fbDrawRect _ _ _ _ _ => .fbDrawRect
  | .fbFillRect _ _ _ _ _ => .fbFillRect
  | .fbDrawCircle _ _ _ _ => .fbDrawCircle
  | .fbFillCircle _ _ _ _ => .fbFillCircle
  | .fbDrawChar _ _ _ _ _ => .fbDrawChar
  | .fbDrawCharScaled _ _ _ _ _ _ => .fbDrawCharScaled
  | .fbDrawString _ _ _ _ _ => .fbDrawString
  | .fbDrawStringScaled _ _ _ _ _ _ => .fbDrawStringScaled
  | .fbDrawStringUtf8 _ _ _ _ _ => .fbDrawStringUtf8
  | .fbDrawStringUtf8Scaled _ _ _ _ _ _ => .fbDrawStringUtf8Scaled
  | .packRgb565 _ _ _ => .packRgb565
  | .flush => .flush
  | .flushRegion _ _ _ _ => .flushRegion
  | .panelWritePixel _ _ _ => .panelWritePixel
  | .ctrlInit => .ctrlInit
  | .bindFb => .bindFb
  | .unbindFb => .unbindFb
  | .setRotation _ => .setRotation
  | .setInversion _ => .setInversion

/-- The header's `aux` field of an instruction (R81, R85, R87). -/
def Instr.aux : Instr → Byte
  | .fbDrawCharScaled _ _ _ _ _ scale => scale
  | .fbDrawStringScaled _ _ _ _ _ scale => scale
  | .fbDrawStringUtf8Scaled _ _ _ _ _ scale => scale
  | .setRotation rotation => rotation.setWidth 8
  | .setInversion on => (BitVec.ofBool on).setWidth 8
  | .fbInit => 0
  | .fbRelease => 0
  | .fbSetPixel _ _ _ => 0
  | .fbGetPixel _ _ => 0
  | .fbDrawLine _ _ _ _ _ => 0
  | .fbDrawRect _ _ _ _ _ => 0
  | .fbFillRect _ _ _ _ _ => 0
  | .fbDrawCircle _ _ _ _ => 0
  | .fbFillCircle _ _ _ _ => 0
  | .fbDrawChar _ _ _ _ _ => 0
  | .fbDrawString _ _ _ _ _ => 0
  | .fbDrawStringUtf8 _ _ _ _ _ => 0
  | .packRgb565 _ _ _ => 0
  | .flush => 0
  | .flushRegion _ _ _ _ => 0
  | .panelWritePixel _ _ _ => 0
  | .ctrlInit => 0
  | .bindFb => 0
  | .unbindFb => 0

/-- The operand words of a string command (R82, R84). -/
def stringOperands (pad : Byte) (x y fg bg : Word) (bytes : List Byte) : List Word :=
  [x, y, fg, bg, BitVec.ofNat 16 bytes.length] ++ packString pad bytes

/-- The operand words of an instruction, in R87's order. -/
def Instr.operandWords (pad : Byte) : Instr → List Word
  | .fbInit => []
  | .fbRelease => []
  | .fbSetPixel x y c => [x, y, c]
  | .fbGetPixel x y => [x, y]
  | .fbDrawLine x0 y0 x1 y1 c => [x0, y0, x1, y1, c]
  | .fbDrawRect x y w h c => [x, y, w, h, c]
  | .fbFillRect x y w h c => [x, y, w, h, c]
  | .fbDrawCircle cx cy r c => [cx, cy, r, c]
  | .fbFillCircle cx cy r c => [cx, cy, r, c]
  | .fbDrawChar x y cpt fg bg => [x, y, cpt, fg, bg]
  | .fbDrawCharScaled x y cpt fg bg _ => [x, y, cpt, fg, bg]
  | .fbDrawString x y fg bg bytes => stringOperands pad x y fg bg bytes
  | .fbDrawStringScaled x y fg bg bytes _ => stringOperands pad x y fg bg bytes
  | .fbDrawStringUtf8 x y fg bg bytes => stringOperands pad x y fg bg bytes
  | .fbDrawStringUtf8Scaled x y fg bg bytes _ => stringOperands pad x y fg bg bytes
  | .packRgb565 r g b => [wordOf 0 r, wordOf 0 g, wordOf 0 b]
  | .flush => []
  | .flushRegion x y w h => [x, y, w, h]
  | .panelWritePixel x y c => [x, y, c]
  | .ctrlInit => []
  | .bindFb => []
  | .unbindFb => []
  | .setRotation _ => []
  | .setInversion _ => []

/-- The packet of an instruction, with `pad` in the padding byte of an odd-length string (R84: it may hold any value). -/
def encodePadded (pad : Byte) (i : Instr) : List Word :=
  wordOf (opcodeByte i.opcode) i.aux :: i.operandWords pad

/-- The packet of an instruction, its padding byte 0. -/
def encode (i : Instr) : List Word := encodePadded 0 i

/-- The string length `n` of an instruction, 0 for one that has no string. -/
def Instr.stringLen : Instr → Nat
  | .fbDrawString _ _ _ _ bytes => bytes.length
  | .fbDrawStringScaled _ _ _ _ bytes _ => bytes.length
  | .fbDrawStringUtf8 _ _ _ _ bytes => bytes.length
  | .fbDrawStringUtf8Scaled _ _ _ _ bytes _ => bytes.length
  | .fbInit => 0
  | .fbRelease => 0
  | .fbSetPixel _ _ _ => 0
  | .fbGetPixel _ _ => 0
  | .fbDrawLine _ _ _ _ _ => 0
  | .fbDrawRect _ _ _ _ _ => 0
  | .fbFillRect _ _ _ _ _ => 0
  | .fbDrawCircle _ _ _ _ => 0
  | .fbFillCircle _ _ _ _ => 0
  | .fbDrawChar _ _ _ _ _ => 0
  | .fbDrawCharScaled _ _ _ _ _ _ => 0
  | .packRgb565 _ _ _ => 0
  | .flush => 0
  | .flushRegion _ _ _ _ => 0
  | .panelWritePixel _ _ _ => 0
  | .ctrlInit => 0
  | .bindFb => 0
  | .unbindFb => 0
  | .setRotation _ => 0
  | .setInversion _ => 0

/-- The length of an instruction's packet in words (R86). -/
def Instr.words (i : Instr) : Nat := packetLen (opcodeFormat i.opcode) i.stringLen

/-! The instruction word as spec/opcode_table.json numbers its bits. -/

/-- Word `k` of a packet given as one number: bits 16k+15 down to 16k. -/
def tableWord (v k : Nat) : Word := BitVec.ofNat 16 (v / 2 ^ (16 * k))

/-- The words of the packet whose first `nbits` bits are `w` and whose other bits are 0, cut at the packet's own length. -/
def tableWords (nbits w : Nat) : List Word :=
  let v := w % 2 ^ nbits
  let len :=
    match opcodeOf (hiByte (tableWord v 0)) with
    | none => 1
    | some op => packetLen (opcodeFormat op) (tableWord v 5).toNat
  (List.range len).map (tableWord v)

/-- What the decoder reads from an instruction given as opcode_table.json numbers its bits. -/
def decodeTableWord (nbits w : Nat) : Option Instr :=
  match decode (tableWords nbits w) with
  | .ok i => some i
  | .error _ => none

end Sys2Proof
end

