-- ==== Sys2Proof/Config.lean ====
section
/-! DEFINITION. The implementation parameters of rule R8 (fixed for the life of the block, R48), and the free values: what
the external allocator, transport and glyph ROM answer where nothing has fixed it. The free values have no body, so no
proof can see what they are. -/

namespace Sys2Proof

/-- A size parameter `1..65535` (R8, R9: `W >= 1`, `H >= 1`, `CHUNK_PIXELS >= 1`). A value that breaks the constraint cannot
be built, so no configuration has to be refused. -/
structure Dim where
  val : Nat
  pos : 1 ≤ val
  le  : val ≤ 65535
deriving DecidableEq, Repr

/-- The static pool's capacity in pixels, an integer `>= 1` (R8). -/
structure PoolSize where
  val : Nat
  pos : 1 ≤ val
deriving DecidableEq, Repr

/-- A glyph bitmap: 16 bytes, one for each row, row 0 at the top (R160). -/
abbrev Glyph := Vector Byte 16

/-- `PANEL_W` (R8): the panel is 240 pixels wide whatever the rotation. -/
def panelW : Nat := 240

/-- `PANEL_H` (R8). -/
def panelH : Nat := 320

/-- The parameters of R8. `State` carries one `Config`, which no step changes, so a claim about every state is a claim about
every configuration. Each default is R8's; `STATIC_CAP` has none there, and `none` stands here (DESIGN CHOICE, log entry 2).
The glyph ROM is any function of the code point: `glyphs` lists the code points whose bitmap is fixed, and every other code
point's bitmap is a free value (`Config.glyph`, log entry 4). -/
structure Config where
  W           : Dim := ⟨240, by decide, by decide⟩
  H           : Dim := ⟨320, by decide, by decide⟩
  chunkPixels : Dim := ⟨512, by decide, by decide⟩
  staticCap   : Option PoolSize := none
  glyphs      : List (Word × Glyph) := []
  cmdSlpout   : Byte := 0x11
  cmdColmod   : Byte := 0x3A
  cmdMadctl   : Byte := 0x36
  cmdCaset    : Byte := 0x2A
  cmdRaset    : Byte := 0x2B
  cmdRamwr    : Byte := 0x2C
  cmdDispon   : Byte := 0x29
  cmdInvoff   : Byte := 0x20
  cmdInvon    : Byte := 0x21
  cmdSwreset  : Byte := 0x01
  colmodValue : Byte := 0x55
  madctlRot   : Vector Byte 4 := #v[0xC0, 0xA0, 0x00, 0x60]
deriving DecidableEq, Repr

/-- The configuration of R8's defaults. -/
def Config.default : Config := {}

/-- The size of the serializer's scratch buffer in bytes, `2 * max(CHUNK_PIXELS, PANEL_W)` (R40): it holds one chunk or one row. -/
def Config.scratchSize (cfg : Config) : Nat := 2 * max cfg.chunkPixels.val panelW

/-- FREE VALUE. The bitmap the ROM gives for a code point no `glyphs` entry fixes (R8, R163, I2, I3; log entry 4). -/
opaque Config.freeGlyph : Word → Glyph

/-- FREE VALUE. The allocator's answer to its draw number `n` when the environment's queue is empty (R111, I7; log entry 3). -/
opaque Config.freeAllocAnswer : Nat → Bool

/-- FREE VALUE. The transport's answer to its send number `n` when the environment's queue is empty (R194, I8; log entry 3). -/
opaque Config.freeSendAnswer : Nat → Bool

end Sys2Proof
end

