-- ==== Sys2Proof/Machine/State.lean ====
section
/-! DEFINITION. The state of FBR (10_state.md) as plain data, its reset value (R47), and the reasons a step can stop. -/

namespace Sys2Proof.Machine

/-- The cells of a store: pairs of a cell address (R60: the unit of address is one 16-bit cell) and its value, addresses
strictly rising, no value `0x0000`. An address that is not listed reads as `0x0000`, the value FB_INIT clears every cell to
(R110). A store has no byte view (R61), so the pairs hold cells and not bytes (log entry 6). -/
abbrev Store := List (Nat × Word)

/-- The kind of an SPI transaction (R192). -/
inductive TxnKind where
  | cmd
  | data
deriving DecidableEq, Repr

/-- One event of the transaction log (R42). -/
inductive Event where
  /-- One framed transaction: its kind, its bytes, and the transport's answer (R193). -/
  | txn (kind : TxnKind) (bytes : List Byte) (ok : Bool)
  /-- One reset pulse on the panel's reset line (R231). -/
  | pulse
deriving DecidableEq, Repr

/-- The two faults of R250. -/
inductive FaultKind where
  | illegalCommand
  | malformedUtf8
deriving DecidableEq, Repr

/-- FBR's state. The registers and stores are the manual's; `cfg` and `stream` are the block's parameters and the host's input
(R48), which no step changes; the four oracle fields are the model's own (log entry 3). -/
structure State where
  /-- The parameters of R8. No step changes them. -/
  cfg : Config
  /-- The host's command stream `S[0 .. N-1]` (R80). No step changes it (R62). -/
  stream : List Word
  /-- MODEL'S OWN. The answers the environment has fixed for the allocator's next draws, first answer first (R111). -/
  allocAnswers : List Bool
  /-- MODEL'S OWN. How many allocator answers have been drawn: the index of the next free answer (R111). -/
  allocDraws : Nat
  /-- MODEL'S OWN. The answers the environment has fixed for the transport's next sends, first answer first (R194). -/
  sendAnswers : List Bool
  /-- MODEL'S OWN. How many sends have been made: the index of the next free answer (R194). -/
  sendDraws : Nat
  /-- `cp`, the command pointer (R31). -/
  cp : BitVec 32
  /-- `RESULT` (R32). -/
  result : Word
  /-- `FAULT_CODE` (R34). -/
  faultCode : BitVec 8
  /-- `FAULT_CP` (R34). -/
  faultCp : BitVec 32
  /-- `halted` (R43). -/
  halted : Bool
  /-- `fb_alloc` (R36). -/
  fbAlloc : Bool
  /-- `fb_static` (R36). -/
  fbStatic : Bool
  /-- The cells of the dynamically allocated store. While `fb_alloc = 1` and `fb_static = 0` they are `fb` (R35, R37). -/
  dynCells : Store
  /-- The cells of the static pool (R38). While `fb_static = 1` the first `W * H` of them are `fb`. -/
  poolCells : Store
  /-- `bound` (R39). -/
  bound : Bool
  /-- `rot` (R39). -/
  rot : BitVec 2
  /-- `inv` (R39). -/
  inv : Bool
  /-- `ready` (R39). -/
  ready : Bool
  /-- `xfer_busy` (R41). -/
  xferBusy : Bool
  /-- `scratch` (R40): the whole buffer, `cfg.scratchSize` bytes from reset on (`State.Inv.scratchSized`), index 0 first. -/
  scratch : List Byte
  /-- `log` (R42), oldest event first. -/
  log : List Event
deriving DecidableEq, Repr

/-- Why the machine stops with a fault. -/
inductive Fault where
  /-- Raised by `step` when `halted = 1`: a fault was raised earlier, and the engine has no step until block reset (R252). Safe:
  the manual says that the machine stops here. -/
  | halted
deriving DecidableEq, Repr

/-- Why the machine has no step without having faulted. -/
inductive Refusal where
  /-- Raised by an arm of `exec` for an instruction that has no meaning yet. Safe: nothing is proved of such a step. -/
  | notModelled (mnemonic : String)
  /-- Raised by `step` when `cp = N`: the run has ended at a packet boundary (R98). Safe: the manual gives no step here. -/
  | runEnded
  /-- Raised by `step` when the stream ends inside a packet: the engine is stuck until the host supplies the missing words
  (R98, I16). Safe: the manual gives no step here, and it is neither a fault nor an end. -/
  | awaitingWords
deriving DecidableEq, Repr

/-- The machine right after block reset (R47, R270), for given parameters, command stream, and environment (the queued oracle
answers and the draw counters). R47 leaves the contents of the pool and of `scratch` unspecified and nothing can read them (R38, R40);
both are zeros here (DESIGN CHOICE, log entries 5 and 7). -/
def State.resetWith (cfg : Config) (stream : List Word) (allocAnswers : List Bool) (allocDraws : Nat)
    (sendAnswers : List Bool) (sendDraws : Nat) : State where
  cfg := cfg
  stream := stream
  allocAnswers := allocAnswers
  allocDraws := allocDraws
  sendAnswers := sendAnswers
  sendDraws := sendDraws
  cp := 0#32
  result := 0#16
  faultCode := 0#8
  faultCp := 0#32
  halted := false
  fbAlloc := false
  fbStatic := false
  dynCells := []
  poolCells := []
  bound := false
  rot := 0#2
  inv := false
  ready := false
  xferBusy := false
  scratch := List.replicate cfg.scratchSize 0#8
  log := []

/-- The machine right after reset, with R8's default parameters, no command stream and no oracle answer fixed (DESIGN CHOICE,
log entries 2, 3 and 9). -/
def State.reset : State := State.resetWith Config.default [] [] 0 [] 0

end Sys2Proof.Machine
end

