-- ==== Sys2Proof/Machine/Ops.lean ====
section
/-! DEFINITION. The named operations every meaning is written with: the primitives of R12 over the stores, the registers, the
oracles, the log and the scratch buffer, the fault entry (R251), and the fetch of a command (R80). -/

namespace Sys2Proof.Machine

/-! The stores. -/

/-- The value of cell `a`: `0x0000` where nothing is listed. -/
def Store.read : Store → Nat → Word
  | [], _ => 0#16
  | (b, v) :: m, a => if a = b then v else Store.read m a

/-- Cell `a` set to `v`, in the canonical form (addresses strictly rising, no value `0x0000`). -/
def Store.write : Store → Nat → Word → Store
  | [], a, v => if v = 0#16 then [] else [(a, v)]
  | (b, u) :: m, a, v =>
    if a < b then (if v = 0#16 then (b, u) :: m else (a, v) :: (b, u) :: m)
    else if a = b then (if v = 0#16 then m else (a, v) :: m)
    else (b, u) :: Store.write m a v

/-- Cells `0 .. n-1` set to `0x0000`. -/
def Store.clearBelow (n : Nat) (m : Store) : Store := m.filter fun cell => n ≤ cell.1

/-- Every listed address is above `a`. -/
def Store.above (a : Nat) (m : Store) : Bool := m.all fun cell => a < cell.1

/-- The canonical form of a store. -/
def Store.wf : Store → Bool
  | [] => true
  | (a, v) :: m => v != 0#16 && Store.above a m && Store.wf m

/-- Every listed address is below `n`. -/
def Store.within (n : Nat) (m : Store) : Bool := m.all fun cell => cell.1 < n

/-- `W * H`, the number of cells of `fb` (R35). -/
def surfaceCells (cfg : Config) : Nat := cfg.W.val * cfg.H.val

/-- `fb`: the static pool's cells while `fb_static = 1`, the dynamic store's otherwise (R35, R38). -/
def State.fb (s : State) : Store := if s.fbStatic then s.poolCells else s.dynCells

/-- `MemRead(a, 1)` (R12, R60). -/
def State.memRead (s : State) (a : Nat) : Word := s.fb.read a

/-- `MemWrite(a, 1, v)` (R12, R60). -/
def State.memWrite (a : Nat) (v : Word) (s : State) : State :=
  { s with
    dynCells := if s.fbStatic then s.dynCells else s.dynCells.write a v
    poolCells := if s.fbStatic then s.poolCells.write a v else s.poolCells }

/-- `MemWrite(a, 1, v)` for each listed address in turn. -/
def State.memFill (addrs : List Nat) (v : Word) (s : State) : State :=
  addrs.foldl (fun t a => t.memWrite a v) s

/-- `for a in 0..W*H-1: MemWrite(a, 1, 0x0000)` (R110). -/
def State.clearSurface (s : State) : State :=
  { s with
    dynCells := if s.fbStatic then s.dynCells else s.dynCells.clearBelow (surfaceCells s.cfg)
    poolCells := if s.fbStatic then s.poolCells.clearBelow (surfaceCells s.cfg) else s.poolCells }

/-! Registers. -/

/-- `RESULT <- v` (R32). -/
def State.setResult (v : Word) (s : State) : State := { s with result := v }

/-- `bound <- v` (R39). -/
def State.setBound (v : Bool) (s : State) : State := { s with bound := v }

/-- `rot <- v` (R39). -/
def State.setRot (v : BitVec 2) (s : State) : State := { s with rot := v }

/-- `inv <- v` (R39). -/
def State.setInv (v : Bool) (s : State) : State := { s with inv := v }

/-- `ready <- v` (R39). -/
def State.setReady (v : Bool) (s : State) : State := { s with ready := v }

/-! The surface's lifecycle (R110, R112). -/

/-- `fb <- pool cells; fb_static <- 1; fb_alloc <- 1` (R110). -/
def State.usePool (s : State) : State := { s with fbAlloc := true, fbStatic := true }

/-- `fb <- W*H fresh cells; fb_static <- 0; fb_alloc <- 1` (R110). The fresh cells' values are unspecified until the same
command clears them (I5), so they are given as cleared. -/
def State.useFreshStore (s : State) : State := { s with fbAlloc := true, fbStatic := false, dynCells := [] }

/-- `fb <- none; fb_alloc <- 0; fb_static <- 0` (R112). A dynamic store's cells cease to exist; the pool keeps its own (R38). -/
def State.dropStore (s : State) : State := { s with fbAlloc := false, fbStatic := false, dynCells := [] }

/-! Oracles. -/

/-- The answer the allocator gives to the next draw (R111): the environment's queued answer, else a free value. -/
def State.allocAnswer (s : State) : Bool :=
  match s.allocAnswers with
  | b :: _ => b
  | [] => Config.freeAllocAnswer s.allocDraws

/-- The state after `draw Alloc()` (R12, R111): one answer is used up. -/
def State.drawAlloc (s : State) : State :=
  { s with allocAnswers := s.allocAnswers.tail, allocDraws := s.allocDraws + 1 }

/-- The answer the transport gives to the send `k` sends ahead, 0 for the very next (R194): the environment's queued answer,
else a free value. -/
def State.sendAnswer (s : State) (k : Nat) : Bool :=
  match s.sendAnswers.drop k with
  | b :: _ => b
  | [] => Config.freeSendAnswer (s.sendDraws + k)

/-! The SPI side. -/

/-- The state after `Send(kind, bytes)` (R193): one transaction on the log with the transport's answer, `s.sendAnswer 0`. -/
def State.send (kind : TxnKind) (bytes : List Byte) (s : State) : State :=
  { s with
    log := s.log ++ [.txn kind bytes (s.sendAnswer 0)]
    sendAnswers := s.sendAnswers.tail
    sendDraws := s.sendDraws + 1 }

/-- `Send` for each listed transaction in turn, every answer ignored (R198). -/
def State.sendAll (sends : List (TxnKind × List Byte)) (s : State) : State :=
  sends.foldl (fun t p => t.send p.1 p.2) s

/-- `Pulse()` (R231). -/
def State.pulse (s : State) : State := { s with log := s.log ++ [.pulse] }

/-- `scratch[0 .. m-1] <- bytes`, `m` the number of bytes (R40). The buffer's other bytes, and its size when `bytes` fits it, stay. -/
def State.writeScratch (bytes : List Byte) (s : State) : State :=
  { s with scratch := bytes ++ s.scratch.drop bytes.length }

/-- `scratch[0 .. m-1] <- bytes; Send(Data, scratch[0 .. m-1])` (R40, R196): every pixel transaction of the serializer. -/
def State.sendPixels (bytes : List Byte) (s : State) : State :=
  (s.writeScratch bytes).send .data ((s.writeScratch bytes).scratch.take bytes.length)

/-! Taking a fault, and going on to the next command. -/

/-- The code of a fault (R250). -/
def faultCodeOf : FaultKind → BitVec 8
  | .illegalCommand => 1#8
  | .malformedUtf8 => 2#8

/-- `raise F(info)` (R251): the one fault entry. `cp` keeps the faulting command's header index. -/
def State.raise (f : FaultKind) (s : State) : State :=
  { s with faultCode := faultCodeOf f, faultCp := s.cp, halted := true }

/-- `cp <- cp + len` after a command that completed without a fault (R31, R80); after a fault `cp` is not advanced (R251). -/
def State.retire (len : Nat) (s : State) : State :=
  { s with cp := if s.halted then s.cp else s.cp + BitVec.ofNat 32 len }

/-! Fetching (R80). -/

/-- What the engine finds when it turns to its next command. -/
inductive Fetched where
  /-- `halted = 1`: no step (R252). -/
  | halted
  /-- `cp = N`: the run has ended (R98). -/
  | ended
  /-- The packet's words are not all there (R98). -/
  | awaiting
  /-- The packet is illegal (R93). -/
  | illegal
  /-- A legal command. -/
  | command (i : Instr)
deriving DecidableEq, Repr

/-- The engine's fetch and legality checks, in R80's order. -/
def State.fetch (s : State) : Fetched :=
  if s.halted then .halted
  else if s.cp.toNat = s.stream.length then .ended
  else
    match decode (s.stream.drop s.cp.toNat) with
    | .ok i => .command i
    | .error .noWords => .awaiting
    | .error .shortPacket => .awaiting
    | .error .reservedOpcode => .illegal
    | .error .illegalAux => .illegal
    | .error .reservedBits => .illegal

end Sys2Proof.Machine
end

