-- ==== Sys2Proof/Machine/Operands.lean ====
section
/-! DEFINITION. What the operand forms stand for: coordinates as integers (R11, R83), the clamped scale (R85), the cell of a
pixel and the clipped pixel write built on it (R35, R113), a cell as bytes (R63), and a string as code points (R161, R170). -/

namespace Sys2Proof.Machine

/-- A coordinate or size operand as the mathematical integer the rules compute with (R11, R83). -/
def coord (w : Word) : Int := (w.toNat : Int)

/-- The effective scale (R85). -/
def scaleOf (aux : Byte) : Nat := min (max aux.toNat 1) 8

/-- The cell address of pixel `(x, y)` (R35, R60). -/
def cellAddr (cfg : Config) (x y : Nat) : Nat := y * cfg.W.val + x

/-- The cell a plot at `(px, py)` goes to, `none` outside `[0, W) x [0, H)` (R113). -/
def cellOf (cfg : Config) (px py : Int) : Option Nat :=
  if 0 ≤ px ∧ px < cfg.W.val ∧ 0 ≤ py ∧ py < cfg.H.val then some (cellAddr cfg px.toNat py.toNat) else none

/-- `Plot(px, py, c)` (R113). -/
def State.plot (px py : Int) (c : Word) (s : State) : State :=
  if s.fbAlloc then
    match cellOf s.cfg px py with
    | some a => s.memWrite a c
    | none => s
  else s

/-- One pixel with its colour. -/
structure Dot where
  x : Int
  y : Int
  c : Word
deriving DecidableEq, Repr

/-- `Plot` for each dot in turn. -/
def State.paint (dots : List Dot) (s : State) : State :=
  dots.foldl (fun t d => t.plot d.x d.y d.c) s

/-- Pixels of one colour, as dots. -/
def dotsOf (pixels : List (Int × Int)) (c : Word) : List Dot := pixels.map fun p => ⟨p.1, p.2, c⟩

/-- `Plot` for each pixel of a shape, all in one colour (R130). -/
def State.plotAll (pixels : List (Int × Int)) (c : Word) (s : State) : State := s.paint (dotsOf pixels c)

/-- The cells a list of plots writes: the addresses of its pixels inside the surface, none while unallocated (R113, R117). -/
def State.plotCells (s : State) (pixels : List (Int × Int)) : List Nat :=
  if s.fbAlloc then pixels.filterMap fun p => cellOf s.cfg p.1 p.2 else []

/-- A 16-bit value as two bytes, most significant first (R63, R195). -/
def bytesBE (w : Word) : List Byte := [hiByte w, loByte w]

/-- `PackBE` (R196). -/
def packBE (cells : List Word) : List Byte := cells.flatMap bytesBE

/-- `rgb565(r, g, b)` (R190). -/
def rgb565 (r g b : Byte) : Word :=
  ((r &&& 0xF8).setWidth 16 <<< 8) ||| ((g &&& 0xFC).setWidth 16 <<< 3) ||| (b >>> 3).setWidth 16

/-- `Decode` of R161 on the bytes from the current index to the string's end: the code point and how many bytes it took;
`none` where it raises MalformedUtf8 (R162). -/
def utf8Decode : List Byte → Option (Word × Nat)
  | [] => none
  | b0 :: rest =>
    if b0.toNat ≤ 0x7F then some (b0.setWidth 16, 1)
    else if 0xC2 ≤ b0.toNat ∧ b0.toNat ≤ 0xDF then
      match rest with
      | b1 :: _ =>
        if 0x80 ≤ b1.toNat ∧ b1.toNat ≤ 0xBF then
          some (((b0.extractLsb' 0 5).setWidth 16 <<< 6) ||| (b1.extractLsb' 0 6).setWidth 16, 2)
        else none
      | [] => none
    else none

/-- The next code point of a string: decoded as UTF-8, or the byte itself (R171). -/
def nextCodePoint (utf8 : Bool) (bytes : List Byte) : Option (Word × Nat) :=
  if utf8 then utf8Decode bytes
  else
    match bytes with
    | b :: _ => some (b.setWidth 16, 1)
    | [] => none

/-- The code points of a string in order, up to its first NUL or its end (R170); a `none` stands for a malformed sequence and is
the last entry (R161). Each code point takes at least one byte, so `fuel` need not exceed the number of bytes. -/
def codePointsWithin (utf8 : Bool) : Nat → List Byte → List (Option Word)
  | 0, _ => []
  | fuel + 1, bytes =>
    match bytes with
    | [] => []
    | b :: _ =>
      if b = 0#8 then []
      else
        match nextCodePoint utf8 bytes with
        | none => [none]
        | some (cpt, k) => some cpt :: codePointsWithin utf8 fuel (bytes.drop k)

/-- The code points of a whole string operand (R170, R171). -/
def codePoints (utf8 : Bool) (bytes : List Byte) : List (Option Word) := codePointsWithin utf8 bytes.length bytes

end Sys2Proof.Machine
end

