-- ==== Sys2Proof/Machine/Serializer.lean ====
section
/-! DEFINITION. The pixel packer and the SPI frame serializer (43_serializer.md). The answer of every send is ignored except
FLUSH's chunk sends (R198). -/

namespace Sys2Proof.Machine

/-- PACK_RGB565 (R190). -/
def execPackRgb565 (r g b : Byte) (s : State) : Host.Outcome State Fault Refusal :=
  .next (s.setResult (rgb565 r g b))

/-- The two ends of a window's range as a parameter list: each written to a 16-bit field, high byte first (R195). -/
def rangeBytes (lo hi : Nat) : List Byte := bytesBE (BitVec.ofNat 16 lo) ++ bytesBE (BitVec.ofNat 16 hi)

/-- The transactions of `Window(x0, y0, x1, y1)` (R195), both ends inclusive. -/
def windowSends (cfg : Config) (x0 y0 x1 y1 : Nat) : List (TxnKind × List Byte) :=
  [(.cmd, [cfg.cmdCaset]), (.data, rangeBytes x0 x1), (.cmd, [cfg.cmdRaset]), (.data, rangeBytes y0 y1)]

/-- The transaction of `MemoryWrite()` (R197). -/
def memoryWriteSends (cfg : Config) : List (TxnKind × List Byte) := [(.cmd, [cfg.cmdRamwr])]

/-- `Window(x0, y0, x1, y1); MemoryWrite()`: the five setup transactions before pixel data. -/
def State.openWindow (x0 y0 x1 y1 : Nat) (s : State) : State :=
  s.sendAll (windowSends s.cfg x0 y0 x1 y1 ++ memoryWriteSends s.cfg)

/-- The number of pixels of a frame, `N = PANEL_W * PANEL_H` (R200). -/
def framePixels : Nat := panelW * panelH

/-- The chunks of a frame, each with its first pixel `k` and its size `m = min(CHUNK_PIXELS, N - k)` (R200, R201). -/
def frameChunks (chunk : Nat) : List (Nat × Nat) :=
  (List.range ((framePixels + chunk - 1) / chunk)).map fun j => (j * chunk, min chunk (framePixels - j * chunk))

/-- The cells `fb[k], ..., fb[k + m - 1]` (R200, R203). -/
def State.cellRun (s : State) (k m : Nat) : List Word := (List.range m).map fun i => s.memRead (k + i)

/-- FLUSH's chunk loop (R200): a failed chunk ends the command with `RESULT = 0`. -/
def State.flushChunks : List (Nat × Nat) → State → State
  | [], s => s.setResult 1#16
  | (k, m) :: rest, s =>
    if s.sendAnswer 0 then State.flushChunks rest (s.sendPixels (packBE (s.cellRun k m)))
    else (s.sendPixels (packBE (s.cellRun k m))).setResult 0#16

/-- The state after FLUSH (R200). -/
def State.flushFrame (s : State) : State :=
  if s.bound = false ∨ s.fbAlloc = false then s.setResult 0#16
  else (s.openWindow 0 0 (panelW - 1) (panelH - 1)).flushChunks (frameChunks s.cfg.chunkPixels.val)

/-- FLUSH (R200). -/
def execFlush (s : State) : Host.Outcome State Fault Refusal := .next s.flushFrame

/-- The region is valid (R204). -/
def regionValid (x y w h : Nat) : Bool := 1 ≤ w && 1 ≤ h && x + w ≤ panelW && y + h ≤ panelH

/-- FLUSH_REGION's row loop over the listed rows (R205): a failed row does not stop later rows. -/
def State.flushRows (x y w : Nat) (rows : List Nat) (s : State) : State :=
  rows.foldl (fun t rr => t.sendPixels (packBE (t.cellRun ((y + rr) * panelW + x) w))) s

/-- The state after FLUSH_REGION (R205). -/
def State.flushRect (x y w h : Nat) (s : State) : State :=
  if s.bound = false ∨ s.fbAlloc = false then s
  else if regionValid x y w h then
    (s.openWindow x y (x + w - 1) (y + h - 1)).flushRows x y w (List.range h)
  else s

/-- FLUSH_REGION (R205). -/
def execFlushRegion (x y w h : Word) (s : State) : Host.Outcome State Fault Refusal :=
  .next (s.flushRect x.toNat y.toNat w.toNat h.toNat)

/-- `ClearPanel()` (R210): the chunks of a frame, all zero bytes. -/
def State.clearPanel (s : State) : State :=
  (frameChunks s.cfg.chunkPixels.val).foldl (fun t km => t.sendPixels (List.replicate (2 * km.2) 0#8))
    (s.openWindow 0 0 (panelW - 1) (panelH - 1))

/-- The state after PANEL_WRITE_PIXEL (R214). -/
def State.panelPixel (x y : Nat) (c : Word) (s : State) : State :=
  if panelW ≤ x ∨ panelH ≤ y then s else (s.openWindow x y x y).sendPixels (bytesBE c)

/-- PANEL_WRITE_PIXEL (R214). -/
def execPanelWritePixel (x y c : Word) (s : State) : Host.Outcome State Fault Refusal :=
  .next (s.panelPixel x.toNat y.toNat c)

end Sys2Proof.Machine
end

