-- ==== Sys2Proof/Machine/Controller.lean ====
section
/-! DEFINITION. The controller commands (44_controller.md). -/

namespace Sys2Proof.Machine

/-- `MADCTL_ROT[rr]` (R8). -/
def madctlByte (cfg : Config) (rr : BitVec 2) : Byte := cfg.madctlRot[rr.toFin]

/-- The transactions of CTRL_INIT between the reset pulse and the panel clear, in order (R230): wake, colour mode, default addressing
mode, display on, inversion on. -/
def initSends (cfg : Config) : List (TxnKind × List Byte) :=
  [(.cmd, [cfg.cmdSlpout]), (.cmd, [cfg.cmdColmod]), (.data, [cfg.colmodValue]), (.cmd, [cfg.cmdMadctl]),
   (.data, [madctlByte cfg 0#2]), (.cmd, [cfg.cmdDispon]), (.cmd, [cfg.cmdInvon])]

/-- The state after CTRL_INIT (R230). -/
def State.initController (s : State) : State :=
  ((((s.pulse.sendAll (initSends s.cfg)).setRot 0#2).setInv true).clearPanel).setReady true

/-- CTRL_INIT (R230). -/
def execCtrlInit (s : State) : Host.Outcome State Fault Refusal := .next s.initController

/-- `W = PANEL_W and H = PANEL_H` (R236). -/
def fitsPanel (cfg : Config) : Bool := cfg.W.val = panelW && cfg.H.val = panelH

/-- BIND_FB (R236). -/
def execBindFb (s : State) : Host.Outcome State Fault Refusal :=
  .next (if fitsPanel s.cfg then (s.setBound true).setResult 1#16 else s.setResult 0#16)

/-- UNBIND_FB (R238). -/
def execUnbindFb (s : State) : Host.Outcome State Fault Refusal := .next (s.setBound false)

/-- SET_ROTATION (R240). -/
def execSetRotation (rr : BitVec 2) (s : State) : Host.Outcome State Fault Refusal :=
  .next ((s.setRot rr).sendAll [(.cmd, [s.cfg.cmdMadctl]), (.data, [madctlByte s.cfg rr])])

/-- SET_INVERSION (R243). -/
def execSetInversion (v : Bool) (s : State) : Host.Outcome State Fault Refusal :=
  .next ((s.setInv v).send .cmd [if v then s.cfg.cmdInvon else s.cfg.cmdInvoff])

end Sys2Proof.Machine
end

