-- ==== Sys2Proof/Machine/Glyph.lean ====
section
/-! DEFINITION. The glyph and text commands (42_glyph.md). -/

namespace Sys2Proof.Machine

/-- `GLYPH(cpt)` (R8, R160): the bitmap the configuration fixes for the code point, else a free value (R163). -/
def glyphOf (cfg : Config) (cpt : Word) : Glyph :=
  match cfg.glyphs.find? fun entry => entry.1 == cpt with
  | some entry => entry.2
  | none => Config.freeGlyph cpt

/-- Column `col` of row `row`: bit `7 - col` of the row's byte (R160). -/
def glyphBit (g : Glyph) (row col : Nat) : Bool := (g[row]?.getD 0#8).getLsbD (7 - col)

/-- The `s x s` block of one glyph bit at row `row`, column `col`, in colour `c` (R164). -/
def glyphBlock (x y : Nat) (row col s : Nat) (c : Word) : List Dot :=
  (List.range s).flatMap fun j => (List.range s).map fun i =>
    ⟨((x + col * s + i : Nat) : Int), ((y + row * s + j : Nat) : Int), c⟩

/-- The plots of one glyph in R164's order: set bits in `fg`, clear bits in `bg` unless `bg` is the transparent `0x0000` (R165). -/
def glyphDots (g : Glyph) (x y : Nat) (fg bg : Word) (s : Nat) : List Dot :=
  (List.range 16).flatMap fun row => (List.range 8).flatMap fun col =>
    if glyphBit g row col then glyphBlock x y row col s fg
    else if bg ≠ 0#16 then glyphBlock x y row col s bg
    else []

/-- `Blit(x, y, cpt, fg, bg, s)` (R164). -/
def State.blit (x y : Nat) (cpt fg bg : Word) (scale : Nat) (s : State) : State :=
  s.paint (glyphDots (glyphOf s.cfg cpt) x y fg bg scale)

/-- `Text`'s loop (R171) over the string's code points, from cursor `cx`: a malformed sequence raises before the width check
(R171, R174), and the first glyph that would overflow the width ends the command. -/
def State.textFrom (y : Nat) (fg bg : Word) (scale : Nat) : List (Option Word) → Nat → State → State
  | [], _, s => s
  | none :: _, _, s => s.raise .malformedUtf8
  | some cpt :: rest, cx, s =>
    if s.cfg.W.val < cx + 8 * scale then s
    else State.textFrom y fg bg scale rest (cx + 8 * scale) (s.blit cx y cpt fg bg scale)

/-- `Text(x, y, fg, bg, s, utf8)` (R171). -/
def State.text (x y fg bg : Word) (bytes : List Byte) (scale : Nat) (utf8 : Bool) (s : State) : State :=
  State.textFrom y.toNat fg bg scale (codePoints utf8 bytes) x.toNat s

/-- FB_DRAW_CHAR (R172). -/
def execFbDrawChar (x y cpt fg bg : Word) (s : State) : Host.Outcome State Fault Refusal :=
  .next (s.blit x.toNat y.toNat cpt fg bg 1)

/-- FB_DRAW_CHAR_SCALED (R173). -/
def execFbDrawCharScaled (x y cpt fg bg : Word) (scale : Byte) (s : State) : Host.Outcome State Fault Refusal :=
  .next (s.blit x.toNat y.toNat cpt fg bg (scaleOf scale))

/-- FB_DRAW_STRING (R175). -/
def execFbDrawString (x y fg bg : Word) (bytes : List Byte) (s : State) : Host.Outcome State Fault Refusal :=
  .next (s.text x y fg bg bytes 1 false)

/-- FB_DRAW_STRING_SCALED (R176). -/
def execFbDrawStringScaled (x y fg bg : Word) (bytes : List Byte) (scale : Byte) (s : State) :
    Host.Outcome State Fault Refusal :=
  .next (s.text x y fg bg bytes (scaleOf scale) false)

/-- FB_DRAW_STRING_UTF8 (R177). -/
def execFbDrawStringUtf8 (x y fg bg : Word) (bytes : List Byte) (s : State) : Host.Outcome State Fault Refusal :=
  .next (s.text x y fg bg bytes 1 true)

/-- FB_DRAW_STRING_UTF8_SCALED (R178). -/
def execFbDrawStringUtf8Scaled (x y fg bg : Word) (bytes : List Byte) (scale : Byte) (s : State) :
    Host.Outcome State Fault Refusal :=
  .next (s.text x y fg bg bytes (scaleOf scale) true)

end Sys2Proof.Machine
end

