-- ==== Sys2Proof/Machine/Raster.lean ====
section
/-! DEFINITION. The rasterization commands (41_raster.md). Each shape is the list of its pixels in the rule's order, off-surface
pixels included; the command plots the list, so each pixel is clipped on its own (R130). -/

namespace Sys2Proof.Machine

/-! Lines (R131). -/

/-- `steep` (R131). -/
def lineSteep (x0 y0 x1 y1 : Int) : Bool := (x1 - x0).natAbs < (y1 - y0).natAbs

/-- `((a0, b0), (a1, b1))` after the two exchanges of R131: the major coordinate first, walked in increasing order. -/
def lineEnds (x0 y0 x1 y1 : Int) : (Int × Int) × (Int × Int) :=
  let p := if lineSteep x0 y0 x1 y1 then (y0, x0) else (x0, y0)
  let q := if lineSteep x0 y0 x1 y1 then (y1, x1) else (x1, y1)
  if q.1 < p.1 then (q, p) else (p, q)

/-- `n` turns of R131's loop from `a`, `b`, `err`: the points `(a, b)` in order. -/
def lineWalk (da db bstep : Int) : Nat → Int → Int → Int → List (Int × Int)
  | 0, _, _, _ => []
  | n + 1, a, b, err =>
    (a, b) ::
      (if err - db < 0 then lineWalk da db bstep n (a + 1) (b + bstep) (err - db + da)
       else lineWalk da db bstep n (a + 1) b (err - db))

/-- The pixels of a line (R131). -/
def linePixels (x0 y0 x1 y1 : Int) : List (Int × Int) :=
  let e := lineEnds x0 y0 x1 y1
  let da := e.2.1 - e.1.1
  let db : Int := (e.2.2 - e.1.2).natAbs
  let bstep : Int := if e.1.2 < e.2.2 then 1 else -1
  (lineWalk da db bstep (da.toNat + 1) e.1.1 e.1.2 (da / 2)).map fun p =>
    if lineSteep x0 y0 x1 y1 then (p.2, p.1) else p

/-- FB_DRAW_LINE (R131). -/
def execFbDrawLine (x0 y0 x1 y1 c : Word) (s : State) : Host.Outcome State Fault Refusal :=
  .next (s.plotAll (linePixels (coord x0) (coord y0) (coord x1) (coord y1)) c)

/-! Rectangles (R133, R134). -/

/-- The pixels of a rectangle outline (R133). -/
def rectPixels (x y : Int) (w h : Nat) : List (Int × Int) :=
  if w = 0 ∨ h = 0 then []
  else
    ((List.range w).flatMap fun (i : Nat) => [(x + i, y), (x + i, y + h - 1)])
      ++ ((List.range h).flatMap fun (j : Nat) => [(x, y + j), (x + w - 1, y + j)])

/-- FB_DRAW_RECT (R133). -/
def execFbDrawRect (x y w h c : Word) (s : State) : Host.Outcome State Fault Refusal :=
  .next (s.plotAll (rectPixels (coord x) (coord y) w.toNat h.toNat) c)

/-- The cells of `[x, x+w) x [y, y+h)`, row by row (R134). -/
def rectCells (cfg : Config) (x y w h : Nat) : List Nat :=
  (List.range h).flatMap fun j => (List.range w).map fun i => cellAddr cfg (x + i) (y + j)

/-- The cells FB_FILL_RECT writes: all of the rectangle's, or none (R134, R117). -/
def State.fillRectCells (s : State) (x y w h : Nat) : List Nat :=
  if s.fbAlloc = false then []
  else if s.cfg.W.val < x + w ∨ s.cfg.H.val < y + h then []
  else rectCells s.cfg x y w h

/-- FB_FILL_RECT (R134). -/
def execFbFillRect (x y w h c : Word) (s : State) : Host.Outcome State Fault Refusal :=
  .next (s.memFill (s.fillRectCells x.toNat y.toNat w.toNat h.toNat) c)

/-! Circles (R135, R137). -/

/-- The eight plots of one turn of R135's loop. -/
def circleOctants (cx cy px py : Int) : List (Int × Int) :=
  [(cx + px, cy + py), (cx - px, cy + py), (cx + px, cy - py), (cx - px, cy - py),
   (cx + py, cy + px), (cx - py, cy + px), (cx + py, cy - px), (cx - py, cy - px)]

/-- R135's loop while `px < py`, from `f`, `ddx`, `ddy`, `px`, `py`. Each turn raises `px` by one and never raises `py`, so
`fuel` need not exceed `py - px`. -/
def circleWalk (cx cy : Int) : Nat → Int → Int → Int → Int → Int → List (Int × Int)
  | 0, _, _, _, _, _ => []
  | fuel + 1, f, ddx, ddy, px, py =>
    if px < py then
      if 0 ≤ f then
        circleOctants cx cy (px + 1) (py - 1)
          ++ circleWalk cx cy fuel (f + (ddy + 2) + (ddx + 2)) (ddx + 2) (ddy + 2) (px + 1) (py - 1)
      else
        circleOctants cx cy (px + 1) py
          ++ circleWalk cx cy fuel (f + (ddx + 2)) (ddx + 2) ddy (px + 1) py
    else []

/-- The pixels of a circle outline (R135). -/
def circlePixels (cx cy : Int) (r : Nat) : List (Int × Int) :=
  [(cx, cy + r), (cx, cy - r), (cx + r, cy), (cx - r, cy)] ++ circleWalk cx cy r (1 - r) 1 (-2 * r) 0 r

/-- FB_DRAW_CIRCLE (R135). -/
def execFbDrawCircle (cx cy r c : Word) (s : State) : Host.Outcome State Fault Refusal :=
  .next (s.plotAll (circlePixels (coord cx) (coord cy) r.toNat) c)

/-- The offsets `-r .. r` (R137). -/
def diskOffsets (r : Nat) : List Int := (List.range (2 * r + 1)).map fun (i : Nat) => (i : Int) - r

/-- The pixels of a filled disc, by the scan of its bounding box (R137). -/
def diskPixels (cx cy : Int) (r : Nat) : List (Int × Int) :=
  (diskOffsets r).flatMap fun dy =>
    ((diskOffsets r).filter fun dx => dx * dx + dy * dy ≤ (r : Int) * r).map fun dx => (cx + dx, cy + dy)

/-- FB_FILL_CIRCLE (R137). -/
def execFbFillCircle (cx cy r c : Word) (s : State) : Host.Outcome State Fault Refusal :=
  .next (s.plotAll (diskPixels (coord cx) (coord cy) r.toNat) c)

end Sys2Proof.Machine
end

