-- ==== Sys2Proof/Machine/Surface.lean ====
section
/-! DEFINITION. The surface commands (40_surface.md). -/

namespace Sys2Proof.Machine

/-- `STATIC_CAP != none and W*H <= STATIC_CAP` (R110). -/
def fitsPool (cfg : Config) : Bool :=
  match cfg.staticCap with
  | none => false
  | some cap => surfaceCells cfg ≤ cap.val

/-- The state after FB_INIT (R110). -/
def State.initSurface (s : State) : State :=
  if s.fbAlloc then s.clearSurface.setResult 1#16
  else if fitsPool s.cfg then s.usePool.clearSurface.setResult 1#16
  else if s.allocAnswer then s.drawAlloc.useFreshStore.clearSurface.setResult 1#16
  else s.drawAlloc.setResult 0#16

/-- FB_INIT (R110). -/
def execFbInit (s : State) : Host.Outcome State Fault Refusal := .next s.initSurface

/-- FB_RELEASE (R112). -/
def execFbRelease (s : State) : Host.Outcome State Fault Refusal := .next s.dropStore

/-- FB_SET_PIXEL (R114). -/
def execFbSetPixel (x y c : Word) (s : State) : Host.Outcome State Fault Refusal :=
  .next (s.plot (coord x) (coord y) c)

/-- The value FB_GET_PIXEL reads (R115). -/
def State.getPixel (s : State) (x y : Nat) : Word :=
  if s.fbAlloc ∧ x < s.cfg.W.val ∧ y < s.cfg.H.val then s.memRead (cellAddr s.cfg x y) else 0#16

/-- FB_GET_PIXEL (R115). -/
def execFbGetPixel (x y : Word) (s : State) : Host.Outcome State Fault Refusal :=
  .next (s.setResult (s.getPixel x.toNat y.toNat))

end Sys2Proof.Machine
end

