-- ==== Sys2Proof/Machine/Dispatch.lean ====
section
/-! DEFINITION. The one dispatch from an instruction to its meaning (R87's rule column). -/

namespace Sys2Proof.Machine

def exec (i : Instr) (s : State) : Host.Outcome State Fault Refusal :=
  match i with
  -- 40_surface.md
  | .fbInit => Sys2Proof.Machine.execFbInit s
  | .fbRelease => Sys2Proof.Machine.execFbRelease s
  | .fbSetPixel x y c => Sys2Proof.Machine.execFbSetPixel x y c s
  | .fbGetPixel x y => Sys2Proof.Machine.execFbGetPixel x y s
  -- 41_raster.md
  | .fbDrawLine x0 y0 x1 y1 c => Sys2Proof.Machine.execFbDrawLine x0 y0 x1 y1 c s
  | .fbDrawRect x y w h c => Sys2Proof.Machine.execFbDrawRect x y w h c s
  | .fbFillRect x y w h c => Sys2Proof.Machine.execFbFillRect x y w h c s
  | .fbDrawCircle cx cy r c => Sys2Proof.Machine.execFbDrawCircle cx cy r c s
  | .fbFillCircle cx cy r c => Sys2Proof.Machine.execFbFillCircle cx cy r c s
  -- 42_glyph.md
  | .fbDrawChar x y cpt fg bg => Sys2Proof.Machine.execFbDrawChar x y cpt fg bg s
  | .fbDrawCharScaled x y cpt fg bg scale => Sys2Proof.Machine.execFbDrawCharScaled x y cpt fg bg scale s
  | .fbDrawString x y fg bg bytes => Sys2Proof.Machine.execFbDrawString x y fg bg bytes s
  | .fbDrawStringScaled x y fg bg bytes scale => Sys2Proof.Machine.execFbDrawStringScaled x y fg bg bytes scale s
  | .fbDrawStringUtf8 x y fg bg bytes => Sys2Proof.Machine.execFbDrawStringUtf8 x y fg bg bytes s
  | .fbDrawStringUtf8Scaled x y fg bg bytes scale => Sys2Proof.Machine.execFbDrawStringUtf8Scaled x y fg bg bytes scale s
  -- 43_serializer.md
  | .packRgb565 r g b => Sys2Proof.Machine.execPackRgb565 r g b s
  | .flush => Sys2Proof.Machine.execFlush s
  | .flushRegion x y w h => Sys2Proof.Machine.execFlushRegion x y w h s
  | .panelWritePixel x y c => Sys2Proof.Machine.execPanelWritePixel x y c s
  -- 44_controller.md
  | .ctrlInit => Sys2Proof.Machine.execCtrlInit s
  | .bindFb => Sys2Proof.Machine.execBindFb s
  | .unbindFb => Sys2Proof.Machine.execUnbindFb s
  | .setRotation rotation => Sys2Proof.Machine.execSetRotation rotation s
  | .setInversion on => Sys2Proof.Machine.execSetInversion on s

end Sys2Proof.Machine
end

