-- ==== Sys2Proof/Machine/Step.lean ====
section
/-! DEFINITION. One step of the engine (R80), and how an instruction word is placed where the engine fetches next. -/

namespace Sys2Proof.Machine

/-- One step (R80): a halted engine has none (R252); at the end of the stream or inside a packet there is none either (R98); an
illegal packet takes the IllegalCommand fault (R93, R251); a legal command runs and the engine moves past it (R31). -/
def step (s : State) : Host.Outcome State Fault Refusal :=
  match s.fetch with
  | .halted => .fault .halted
  | .ended => .refused .runEnded
  | .awaiting => .refused .awaitingWords
  | .illegal => .next (s.raise .illegalCommand)
  | .command i =>
    match exec i s with
    | .next t => .next (t.retire i.words)
    | .fault r => .fault r
    | .refused r => .refused r

/-- `s` with the packet whose first `nbits` bits are `w` (numbered as spec/opcode_table.json numbers them) standing in the host's
stream at `cp`, where the engine fetches next. It is no move of the host (R276 gives none that changes words at or beyond `cp`): it
names the state of a machine whose stream was another one from the start. The words before `cp`, the only ones fetched so far, are those
of `s`. A stream that ends before `cp` is filled with zero words up to it (log entry 9). -/
def State.withFetchWord (s : State) (nbits w : Nat) : State :=
  let packet := tableWords nbits w
  let before := s.stream.take s.cp.toNat
  let gap := List.replicate (s.cp.toNat - s.stream.length) (0 : Word)
  { s with stream := before ++ gap ++ packet ++ s.stream.drop (s.cp.toNat + packet.length) }

end Sys2Proof.Machine
end

