-- ==== Sys2Proof/Machine/Flags.lean ====
section
/-! DEFINITION. `STATUS` (R33): FBR has no condition codes (R44); its one flag word is a view of the state, computed here. -/

namespace Sys2Proof.Machine

/-- `STATUS`, bit 0 rightmost: ALLOC, STATIC, BOUND, READY, INV, ROT (2 bits), XFER_BUSY, HALTED, and bits 15:9 as 0 (R33). -/
def State.status (s : State) : Word :=
  0#7 ++ BitVec.ofBool s.halted ++ BitVec.ofBool s.xferBusy ++ s.rot ++ BitVec.ofBool s.inv
    ++ BitVec.ofBool s.ready ++ BitVec.ofBool s.bound ++ BitVec.ofBool s.fbStatic ++ BitVec.ofBool s.fbAlloc

end Sys2Proof.Machine
end

