-- ==== Sys2Proof/Machine/HostPort.lean ====
section
/-! DEFINITION. What the outside world can do to FBR and see of it: the host's register reads (R46), block reset (R270), supplying
command words (R98), the end of a run (R98), and the SPI lines a log stands for (R193, R231, R261).
These are all the moves the host has. None breaks a duty of R276: a command is one step, so every state here is one between commands,
and no move changes a word of the stream that is already there. -/

namespace Sys2Proof.Machine

/-- The registers the host can read (R46). -/
inductive HostReg where
  | result | status | faultCode | faultCp
deriving DecidableEq, Repr

/-- A host read, zero-extended to the widest register (R32 to R34, R46). A read changes no state. -/
def State.hostRead (s : State) : HostReg → BitVec 32
  | .result => s.result.setWidth 32
  | .status => s.status.setWidth 32
  | .faultCode => s.faultCode.setWidth 32
  | .faultCp => s.faultCp

/-- Block reset between commands (R270): every piece of state at its reset value (R47). The parameters stay (R48), and so do the
host's stream, which runs again from word 0 (R271), and the environment's oracles. -/
def State.blockReset (s : State) : State :=
  State.resetWith s.cfg s.stream s.allocAnswers s.allocDraws s.sendAnswers s.sendDraws

/-- The host supplies further words of its stream (R98): they follow the words already there, none of which changes. It is no move
of the host (`none`) where the stream would reach `2^32` words (R276). -/
def State.supply (words : List Word) (s : State) : Option State :=
  if s.stream.length + words.length < 2 ^ 32 then some { s with stream := s.stream ++ words } else none

/-- The run has ended normally: `cp = N` with `halted = 0` (R98). -/
def State.runOver (s : State) : Bool := !s.halted && s.cp.toNat == s.stream.length

/-- One action on FBR's SPI-side lines (R193, R231, R261). -/
inductive LineAction where
  /-- `setMode(dataVsCommand)`: true for data (R192). -/
  | setMode (data : Bool)
  /-- `select(active)`. -/
  | select (active : Bool)
  /-- `transport.send` of these bytes and its answer. -/
  | send (bytes : List Byte) (ok : Bool)
  /-- The panel's reset line is pulsed. -/
  | resetPulse
deriving DecidableEq, Repr

/-- The line actions of one event (R193, R231). -/
def eventLines : Event → List LineAction
  | .txn kind bytes ok => [.setMode (kind == .data), .select true, .send bytes ok, .select false]
  | .pulse => [.resetPulse]

/-- Everything FBR has done on its SPI-side lines since reset. -/
def State.lines (s : State) : List LineAction := s.log.flatMap eventLines

end Sys2Proof.Machine
end

