-- ==== Sys2Proof/Safety.lean ====
section
/-! DEFINITION. The terms claims are stated in: the state invariant, what a command may have changed (frames), and what a list of
written cells means. -/

namespace Sys2Proof.Machine

/-- A logged event is well formed (R42, R192): a transaction has at least one byte, a command transaction exactly one. -/
def eventWf : Event → Bool
  | .txn .cmd bytes _ => bytes.length == 1
  | .txn .data bytes _ => bytes.length != 0
  | .pulse => true

/-- The machine's invariant. Its fields hold at reset and every step keeps them. -/
structure State.Inv (s : State) : Prop where
  /-- `fb_static = 1` implies `fb_alloc = 1` (R36). -/
  staticAlloc : s.fbStatic = true → s.fbAlloc = true
  /-- The static pool is used only by a surface that fits it (R110). -/
  staticFits : s.fbStatic = true → fitsPool s.cfg = true
  /-- There are dynamic cells only while a dynamic store is allocated (R37, R112). -/
  dynExists : ¬ (s.fbAlloc = true ∧ s.fbStatic = false) → s.dynCells = []
  /-- Pool cells have been written only where the surface uses the pool at all (R38). -/
  poolExists : fitsPool s.cfg = false → s.poolCells = []
  /-- Both stores are in canonical form, and hold cells `0 .. W*H - 1` only (R60). -/
  dynWf : s.dynCells.wf = true
  poolWf : s.poolCells.wf = true
  dynWithin : s.dynCells.within (surfaceCells s.cfg) = true
  poolWithin : s.poolCells.within (surfaceCells s.cfg) = true
  /-- Only a 240 x 320 surface is ever bound (R236). -/
  boundFits : s.bound = true → fitsPanel s.cfg = true
  /-- `xfer_busy` is 0 for ever (R41). -/
  neverBusy : s.xferBusy = false
  /-- A halted engine has recorded its fault, at the faulting command's header index (R34, R251). -/
  faultRecorded : s.halted = true → (s.faultCode = 1#8 ∨ s.faultCode = 2#8) ∧ s.faultCp = s.cp
  /-- No fault is recorded before one is raised (R34). -/
  noFaultYet : s.halted = false → s.faultCode = 0#8 ∧ s.faultCp = 0#32
  /-- `scratch` has exactly its `2 * max(CHUNK_PIXELS, PANEL_W)` bytes (R40). -/
  scratchSized : s.scratch.length = s.cfg.scratchSize
  /-- Every logged event is well formed (R42). -/
  logWf : s.log.all eventWf = true
  /-- The host keeps its stream shorter than `2^32` words (R276). -/
  streamShort : s.stream.length < 2 ^ 32
  /-- `cp` never passes the end of the stream (R80, R98). -/
  cpInStream : s.cp.toNat ≤ s.stream.length

/-- `t` differs from `s` at most in the cells of `s`'s surface: the other store and every other field are as in `s`. -/
def SameButCells (s t : State) : Prop :=
  t = { s with dynCells := t.dynCells, poolCells := t.poolCells }
    ∧ (s.fbStatic = true → t.dynCells = s.dynCells) ∧ (s.fbStatic = false → t.poolCells = s.poolCells)

/-- `t` differs from `s` at most in `RESULT`. -/
def SameButResult (s t : State) : Prop := t = { s with result := t.result }

/-- `t` differs from `s` at most in what sends write: the log, the scratch buffer, and the transport's draws. -/
def SameButLink (s t : State) : Prop :=
  t = { s with log := t.log, scratch := t.scratch, sendAnswers := t.sendAnswers, sendDraws := t.sendDraws }

/-- Every surface cell of `t` holds `c` if it is listed, and otherwise what it held in `s`. -/
def Painted (s t : State) (cells : List Nat) (c : Word) : Prop :=
  ∀ a, t.memRead a = if a ∈ cells then c else s.memRead a

/-- The events of sending the listed transactions one after another (R193), when `n` sends have gone before them since `s`: each
event carries the transport's answer to its own send. -/
def State.txns (s : State) : Nat → List (TxnKind × List Byte) → List Event
  | _, [] => []
  | n, p :: rest => .txn p.1 p.2 (s.sendAnswer n) :: State.txns s (n + 1) rest

/-- The five setup transactions of a window and memory write (R195, R197), as the manual's byte lists. -/
def setupSends (cfg : Config) (x0 y0 x1 y1 : Nat) : List (TxnKind × List Byte) :=
  [(.cmd, [cfg.cmdCaset]),
   (.data, [BitVec.ofNat 8 (x0 / 256), BitVec.ofNat 8 x0, BitVec.ofNat 8 (x1 / 256), BitVec.ofNat 8 x1]),
   (.cmd, [cfg.cmdRaset]),
   (.data, [BitVec.ofNat 8 (y0 / 256), BitVec.ofNat 8 y0, BitVec.ofNat 8 (y1 / 256), BitVec.ofNat 8 y1]),
   (.cmd, [cfg.cmdRamwr])]

/-- The number of transactions among some events. -/
def txnCount (events : List Event) : Nat := events.countP fun e => e matches .txn _ _ _

/-- The bytes of a data transaction, none for any other event. -/
def eventData : Event → List Byte
  | .txn .data bytes _ => bytes
  | .txn .cmd _ _ => []
  | .pulse => []

/-- `N = 240 * 320` pixels in chunks of `chunk`: the number of chunks (R201). -/
def chunkCount (chunk : Nat) : Nat := (76800 + chunk - 1) / chunk

/-- The bytes of cells `k, ..., k + m - 1` of the surface, each most significant byte first (R63, R196). -/
def State.cellBytes (s : State) (k m : Nat) : List Byte :=
  (List.range m).flatMap fun i =>
    [BitVec.ofNat 8 ((s.memRead (k + i)).toNat / 256), BitVec.ofNat 8 (s.memRead (k + i)).toNat]

/-- The data transaction of chunk `j` of a frame (R201): cells `j*chunk .. min((j+1)*chunk, N) - 1`. -/
def State.chunkTxn (s : State) (j : Nat) : TxnKind × List Byte :=
  let chunk := s.cfg.chunkPixels.val
  (.data, s.cellBytes (j * chunk) (min ((j + 1) * chunk) 76800 - j * chunk))

/-- Whole glyphs side by side from `(x, y)`: glyph `m` has its left edge at `x + 8*s*m` (R179). -/
def State.drawGlyphs (x y : Nat) (fg bg : Word) (scale : Nat) (cpts : List Word) (s : State) : State :=
  cpts.zipIdx.foldl (fun t p => t.blit (x + 8 * scale * p.2) y p.1 fg bg scale) s

/-- `G` of R179: how many glyphs fit from `x` to the right edge. -/
def glyphRoom (w x scale : Nat) : Nat := (w - x) / (8 * scale)

/-- A code point below `0x800` as UTF-8 (R161). -/
def utf8Encode (cpt : Nat) : List Byte :=
  if cpt < 0x80 then [BitVec.ofNat 8 cpt] else [BitVec.ofNat 8 (0xC0 + cpt / 64), BitVec.ofNat 8 (0x80 + cpt % 64)]

end Sys2Proof.Machine
end

