-- ==== Sys2Proof/Certificates/Slice0/Obligations.lean ====
section
/-! DEFINITION. The statements for the provers. Each docstring names the rules it formalises; OBLIGATIONS.json lists them. A premise
`s.fb.wf = true` says that the surface's cell list is in canonical form: the invariant `State.Inv`, which
`StepKeepsTheInvariant` is about, gives it. -/

open Sys2Proof Sys2Proof.Machine

/-! Encoding and the engine's step. -/

/-- R81 to R87, R90: decoding the packet of a well-formed instruction, whatever its padding byte and the words after it, gives the
instruction back. -/
def Obligations.DecodeOfEncodeIsTheInstruction : Prop :=
  ∀ (i : Instr) (pad : Byte) (rest : List Word), i.wf = true → decode (encodePadded pad i ++ rest) = .ok i

/-- R84, R86, R88 to R90: what the decoder accepts is a whole packet, and its words are the encoding of the instruction it gives, but
for the padding byte of an odd-length string. -/
def Obligations.DecodedWordsAreTheEncoding : Prop :=
  ∀ (ws : List Word) (i : Instr), decode ws = .ok i →
    i.wf = true ∧ i.words ≤ ws.length ∧ ∃ pad, ws.take i.words = encodePadded pad i

/-- R87, R96: words written out from the opcode map decode to the commands they stand for. -/
def Obligations.WorkedWordsDecode : Prop :=
  decode [0x0300#16, 0x000A#16, 0x0014#16, 0xF800#16] = .ok (.fbSetPixel 10#16 20#16 0xF800#16)
    ∧ decode [0x1300#16, 0x000A#16, 0x000A#16, 0x0003#16, 0x07E0#16] = .ok (.fbDrawCircle 10#16 10#16 3#16 0x07E0#16)
    ∧ decode [0x2102#16, 0#16, 0#16, 0x0041#16, 0xFFFF#16, 0#16] = .ok (.fbDrawCharScaled 0#16 0#16 0x41#16 0xFFFF#16 0#16 2#8)
    ∧ decode [0x2400#16, 0#16, 0#16, 0xFFFF#16, 0#16, 3#16, 0x90D0#16, 0x0041#16]
        = .ok (.fbDrawStringUtf8 0#16 0#16 0xFFFF#16 0#16 [0xD0#8, 0x90#8, 0x41#8])
    ∧ decode [0x3200#16, 0x003C#16, 0x003C#16, 0x0078#16, 0x00C8#16] = .ok (.flushRegion 60#16 60#16 120#16 200#16)
    ∧ decode [0x4303#16] = .ok (.setRotation 3#2)

/-- R80, R31: when the words at `cp` decode to an instruction and the engine is not halted, a step is that instruction's execution,
followed by `cp <- cp + len` unless the instruction raised a fault. -/
def Obligations.StepRunsTheDecodedInstruction : Prop :=
  ∀ (s : State) (i : Instr), s.halted = false → decode (s.stream.drop s.cp.toNat) = .ok i →
    step s = match exec i s with
      | .next t => .next (if t.halted = true then t else { t with cp := t.cp + BitVec.ofNat 32 i.words })
      | .fault r => .fault r
      | .refused r => .refused r

/-- R91: a header whose opcode is reserved raises IllegalCommand whatever its `aux` and whatever follows; nothing else changes. -/
def Obligations.ReservedOpcodeRaisesIllegalCommand : Prop :=
  ∀ (s : State) (hdr : Word), s.halted = false → s.stream[s.cp.toNat]? = some hdr →
    (let opc := hdr.toNat / 256
     opc = 0 ∨ (0x05 ≤ opc ∧ opc ≤ 0x0F) ∨ (0x15 ≤ opc ∧ opc ≤ 0x1F) ∨ (0x26 ≤ opc ∧ opc ≤ 0x2F)
      ∨ (0x34 ≤ opc ∧ opc ≤ 0x3F) ∨ (0x45 ≤ opc ∧ opc ≤ 0xFF)) →
    step s = .next { s with faultCode := 1#8, faultCp := s.cp, halted := true }

/-- R88, R90: a header whose `aux` is illegal for its opcode raises IllegalCommand; nothing else changes. -/
def Obligations.IllegalAuxRaisesIllegalCommand : Prop :=
  ∀ (s : State) (hdr : Word), s.halted = false → s.stream[s.cp.toNat]? = some hdr →
    (let opc := hdr.toNat / 256
     let aux := hdr.toNat % 256
     (opc ∈ [0x01, 0x02, 0x03, 0x04, 0x10, 0x11, 0x12, 0x13, 0x14, 0x20, 0x22, 0x24, 0x30, 0x31, 0x32, 0x33, 0x40, 0x41, 0x42]
        ∧ aux ≠ 0)
      ∨ (opc = 0x43 ∧ 3 < aux) ∨ (opc = 0x44 ∧ 1 < aux)) →
    step s = .next { s with faultCode := 1#8, faultCp := s.cp, halted := true }

/-- R89: PACK_RGB565 with a nonzero bit in bits [15:8] of an operand word raises IllegalCommand and writes nothing else; with those
bits 0 it decodes to the three channels; and no other command is ever illegal for its operand words. -/
def Obligations.OnlyPackHasReservedOperandBits : Prop :=
  (∀ (s : State) (r g b : Word) (rest : List Word), s.halted = false →
      s.stream.drop s.cp.toNat = 0x3000#16 :: r :: g :: b :: rest → (256 ≤ r.toNat ∨ 256 ≤ g.toNat ∨ 256 ≤ b.toNat) →
      step s = .next { s with faultCode := 1#8, faultCp := s.cp, halted := true })
    ∧ (∀ (r g b : Word) (rest : List Word), r.toNat < 256 → g.toNat < 256 → b.toNat < 256 →
        decode (0x3000#16 :: r :: g :: b :: rest)
          = .ok (.packRgb565 (BitVec.ofNat 8 r.toNat) (BitVec.ofNat 8 g.toNat) (BitVec.ofNat 8 b.toNat)))
    ∧ (∀ (hdr : Word) (rest : List Word), hdr.toNat / 256 ≠ 0x30 → decode (hdr :: rest) ≠ .error .reservedBits)

/-- R98: at a packet boundary with no word left the run has ended; with a packet only begun the engine has no step and the run has not
ended, and once the host supplies the packet's remaining words it fetches that instruction. That both states are refusals is the
model's choice (log entry 8). The host can supply them while the stream stays shorter than `2^32` words (R276). -/
def Obligations.ShortStreamsHaveNoStep : Prop :=
  (∀ s : State, s.halted = false → s.cp.toNat = s.stream.length → step s = .refused .runEnded ∧ s.runOver = true)
    ∧ (∀ (s : State) (i : Instr) (pad : Byte) (n : Nat), s.halted = false → i.wf = true → 0 < n → n < i.words →
        s.stream.drop s.cp.toNat = (encodePadded pad i).take n →
        step s = .refused .awaitingWords ∧ s.runOver = false
          ∧ (s.stream.length + (i.words - n) < 2 ^ 32 →
              ∃ u, s.supply ((encodePadded pad i).drop n) = some u ∧ u.fetch = .command i))
    ∧ (∀ s : State, s.halted = true → s.runOver = false)

/-- R252: a halted engine has no step. -/
def Obligations.HaltedEngineHasNoStep : Prop :=
  ∀ s : State, s.halted = true → step s = .fault .halted

/-- R31, R94, R251: a step moves `cp` past the packet it ran, or leaves `cp` where it is and halts. -/
def Obligations.CommandPointerMovesByPacketLength : Prop :=
  ∀ s t : State, step s = .next t →
    (t.halted = false ∧ ∃ i, decode (s.stream.drop s.cp.toNat) = .ok i ∧ t.cp = s.cp + BitVec.ofNat 32 i.words)
      ∨ (t.halted = true ∧ t.cp = s.cp)

/-- R34, R250, R251: FAULT_CODE and FAULT_CP change only when a step raises a fault; then FAULT_CODE is 1 or 2 and FAULT_CP is the
header index of the command that raised it. -/
def Obligations.FaultRegistersChangeOnlyAtFaultEntry : Prop :=
  ∀ s t : State, step s = .next t →
    (t.halted = false ∧ t.faultCode = s.faultCode ∧ t.faultCp = s.faultCp)
      ∨ (t.halted = true ∧ (t.faultCode = 1#8 ∨ t.faultCode = 2#8) ∧ t.faultCp = s.cp)

/-- R250, R255: a command that passed the legality checks raises at most MalformedUtf8, and only the two UTF-8 string commands do. -/
def Obligations.OnlyUtf8CommandsRaise : Prop :=
  ∀ (i : Instr) (s t : State), s.halted = false → exec i s = .next t → t.halted = true →
    t.faultCode = 2#8 ∧ (i.opcode = .fbDrawStringUtf8 ∨ i.opcode = .fbDrawStringUtf8Scaled)

/-! Reset and the invariant. -/

/-- R47: the state after block reset, whatever the parameters, the host's stream and the environment. The two values R47 leaves
unspecified (the pool's contents and `scratch`) are not stated. -/
def Obligations.ResetValues : Prop :=
  ∀ (cfg : Config) (stream : List Word) (aa : List Bool) (ad : Nat) (sa : List Bool) (sd : Nat),
    let s := State.resetWith cfg stream aa ad sa sd
    s.cp = 0#32 ∧ s.result = 0#16 ∧ s.faultCode = 0#8 ∧ s.faultCp = 0#32 ∧ s.halted = false ∧ s.fbAlloc = false
      ∧ s.fbStatic = false ∧ s.dynCells = [] ∧ s.bound = false ∧ s.rot = 0#2 ∧ s.inv = false ∧ s.ready = false ∧ s.xferBusy = false
      ∧ s.log = [] ∧ s.status = 0#16

/-- R252, R257, R270, R271: block reset from any state, halted or not, leaves no fault, an empty log and no surface, and the engine
fetches from command word 0. That the parameters and the host's stream outlast it is the model's choice (log entry 10). -/
def Obligations.BlockResetStartsAfresh : Prop :=
  ∀ s : State, s.blockReset.halted = false ∧ s.blockReset.faultCode = 0#8 ∧ s.blockReset.faultCp = 0#32
    ∧ s.blockReset.fbAlloc = false ∧ s.blockReset.bound = false ∧ s.blockReset.log = [] ∧ s.blockReset.cfg = s.cfg
    ∧ ∀ i, decode s.stream = .ok i → s.blockReset.fetch = .command i

/-- R36, R37, R40, R41, R42, R34, R60: the invariant holds after reset, for every configuration and every stream the host may give. Its
clauses on the pool rest on the contents the model names for it at reset (log entry 5); its clause on `scratch` is the size R40 gives. -/
def Obligations.ResetMeetsTheInvariant : Prop :=
  State.reset.Inv ∧ ∀ s : State, s.stream.length < 2 ^ 32 → s.blockReset.Inv

/-- R36, R37, R40, R41, R42, R34, R60, R98, R236: every step keeps the invariant. -/
def Obligations.StepKeepsTheInvariant : Prop :=
  ∀ s t : State, s.Inv → step s = .next t → t.Inv

/-! Whole-machine rules. -/

/-- R41, R48, R62: no step changes the parameters, the command stream or `xfer_busy`. -/
def Obligations.StepKeepsParametersStreamAndTransferFlag : Prop :=
  ∀ s t : State, step s = .next t → t.cfg = s.cfg ∧ t.stream = s.stream ∧ t.xferBusy = s.xferBusy

/-- R42, R193, R194: a step only appends to the log, and the log's new transactions carry exactly the transport answers the step drew,
in order. The counters and queues are the model's own (log entry 3). -/
def Obligations.LogGrowsByTheDrawnAnswers : Prop :=
  ∀ s t : State, step s = .next t → ∃ events sends,
    t.log = s.log ++ events ∧ (events.filter fun e => e matches .txn _ _ _) = s.txns 0 sends
      ∧ t.sendDraws = s.sendDraws + sends.length ∧ t.sendAnswers = s.sendAnswers.drop sends.length

/-- R32: every command but FB_INIT, FB_GET_PIXEL, PACK_RGB565, FLUSH and BIND_FB leaves RESULT unchanged. -/
def Obligations.OnlyFiveCommandsWriteResult : Prop :=
  ∀ (i : Instr) (s t : State), i.opcode ∉ [Opcode.fbInit, .fbGetPixel, .packRgb565, .flush, .bindFb] →
    exec i s = .next t → t.result = s.result

/-- R116: only FB_INIT, FB_SET_PIXEL, the shape commands and the glyph commands change surface cells; no serializer or controller
command does. (FB_RELEASE makes a dynamic store's cells cease to exist and keeps the pool's.) -/
def Obligations.OnlyDrawingCommandsChangeCells : Prop :=
  ∀ (i : Instr) (s t : State), exec i s = .next t →
    (i.opcode ∈ [Opcode.fbGetPixel, .packRgb565, .flush, .flushRegion, .panelWritePixel, .ctrlInit, .bindFb, .unbindFb,
        .setRotation, .setInversion] →
      t.dynCells = s.dynCells ∧ t.poolCells = s.poolCells ∧ t.fbAlloc = s.fbAlloc ∧ t.fbStatic = s.fbStatic)
    ∧ (i.opcode = .fbRelease → t.poolCells = s.poolCells)

/-- R117: with `fb_alloc = 0` the drawing commands change nothing, FB_GET_PIXEL returns 0x0000, and a UTF-8 string command changes
nothing or takes MalformedUtf8, which a leading continuation byte always makes it do. -/
def Obligations.UnallocatedSurfaceIsANoOp : Prop :=
  ∀ s : State, s.fbAlloc = false →
    (∀ i : Instr, i.opcode ∈ [Opcode.fbSetPixel, .fbDrawLine, .fbDrawRect, .fbFillRect, .fbDrawCircle, .fbFillCircle, .fbDrawChar,
        .fbDrawCharScaled, .fbDrawString, .fbDrawStringScaled] → exec i s = .next s)
    ∧ (∀ x y, exec (.fbGetPixel x y) s = .next { s with result := 0#16 })
    ∧ (∀ i : Instr, i.opcode = .fbDrawStringUtf8 ∨ i.opcode = .fbDrawStringUtf8Scaled →
        exec i s = .next s ∨ exec i s = .next { s with faultCode := 2#8, faultCp := s.cp, halted := true })
    ∧ (∀ (x y fg bg : Word) (b : Byte) (bytes : List Byte) (scale : Byte), 0x80 ≤ b.toNat → b.toNat ≤ 0xBF →
        exec (.fbDrawStringUtf8 x y fg bg (b :: bytes)) s
            = .next { s with faultCode := 2#8, faultCp := s.cp, halted := true }
          ∧ exec (.fbDrawStringUtf8Scaled x y fg bg (b :: bytes) scale) s
            = .next { s with faultCode := 2#8, faultCp := s.cp, halted := true })

/-- R40: what `scratch` holds before a command has no effect on anything but `scratch`. -/
def Obligations.ScratchIsUnobservable : Prop :=
  ∀ (i : Instr) (s : State) (b : List Byte), ∃ t t', exec i s = .next t ∧ exec i { s with scratch := b } = .next t'
    ∧ t' = { t with scratch := t'.scratch }

/-- R241: the rotation setting has no effect on any command but through `rot` itself. -/
def Obligations.RotationDoesNotReshape : Prop :=
  ∀ (i : Instr) (s : State) (r : BitVec 2), ∃ t t', exec i s = .next t ∧ exec i { s with rot := r } = .next t'
    ∧ t' = { t with rot := t'.rot }
    ∧ (i.opcode ≠ .setRotation → i.opcode ≠ .ctrlInit → t'.rot = r)

/-- R38: the pool's contents while no surface is allocated have no effect on anything a command does afterwards, nor on any cell of the
surface. -/
def Obligations.StalePoolIsUnobservable : Prop :=
  ∀ (i : Instr) (s : State) (p : Store), s.fbAlloc = false → s.fbStatic = false →
    ∃ t t', exec i s = .next t ∧ exec i { s with poolCells := p } = .next t'
      ∧ t' = { t with poolCells := t'.poolCells }
      ∧ ∀ a, a < s.cfg.W.val * s.cfg.H.val → t'.memRead a = t.memRead a

/-- R33, R46: the fields of STATUS, as the host reads them. That the host's read is 32 bits wide, so that bits 16 to 31 are 0 as well, is
the model's choice (log entry 18). -/
def Obligations.StatusFields : Prop :=
  ∀ s : State, let v := s.hostRead .status
    v.getLsbD 0 = s.fbAlloc ∧ v.getLsbD 1 = s.fbStatic ∧ v.getLsbD 2 = s.bound ∧ v.getLsbD 3 = s.ready ∧ v.getLsbD 4 = s.inv
      ∧ v.getLsbD 5 = s.rot.getLsbD 0 ∧ v.getLsbD 6 = s.rot.getLsbD 1 ∧ v.getLsbD 7 = s.xferBusy ∧ v.getLsbD 8 = s.halted
      ∧ ∀ k, 9 ≤ k → v.getLsbD k = false

/-! Surface commands. -/

/-- R110, R111: FB_INIT in its four cases, with its frame. How a drawn answer is used up (`allocAnswers`, `allocDraws`) is the model's
own (log entry 3). -/
def Obligations.FbInitAllocatesAndClears : Prop :=
  ∀ s : State, ∃ t, exec .fbInit s = .next t
    ∧ (let cells := s.cfg.W.val * s.cfg.H.val
       let fits := ∃ cap, s.cfg.staticCap = some cap ∧ cells ≤ cap.val
       ((s.fbAlloc = true ∨ fits ∨ s.allocAnswer = true) → ∀ a, a < cells → t.memRead a = 0#16)
       ∧ (s.fbAlloc = true → t = { s with dynCells := t.dynCells, poolCells := t.poolCells, result := 1#16 }
            ∧ (s.fbStatic = true → t.dynCells = s.dynCells) ∧ (s.fbStatic = false → t.poolCells = s.poolCells)
            ∧ ∀ a, cells ≤ a → t.memRead a = s.memRead a)
       ∧ (s.fbAlloc = false → fits →
            t = { s with fbAlloc := true, fbStatic := true, poolCells := t.poolCells, result := 1#16 }
            ∧ ∀ a, cells ≤ a → t.poolCells.read a = s.poolCells.read a)
       ∧ (s.fbAlloc = false → ¬ fits → s.allocAnswer = true →
            t = { s with fbAlloc := true, fbStatic := false, dynCells := t.dynCells, result := 1#16,
                         allocAnswers := s.allocAnswers.tail, allocDraws := s.allocDraws + 1 })
       ∧ (s.fbAlloc = false → ¬ fits → s.allocAnswer = false →
            t = { s with result := 0#16, allocAnswers := s.allocAnswers.tail, allocDraws := s.allocDraws + 1 }))

/-- R112: FB_RELEASE: the dynamic cells cease to exist, the pool keeps its own, and nothing else changes. -/
def Obligations.FbReleaseDropsTheStore : Prop :=
  ∀ s : State, exec .fbRelease s = .next { s with fbAlloc := false, fbStatic := false, dynCells := [] }

/-- R113, R114: FB_SET_PIXEL writes the cell `y * W + x` when `(x, y)` is inside an allocated surface, and nothing otherwise. -/
def Obligations.SetPixelWritesItsCell : Prop :=
  ∀ (s : State) (x y c : Word), s.fb.wf = true → ∃ t, exec (.fbSetPixel x y c) s = .next t ∧ SameButCells s t
    ∧ ∀ a, t.memRead a =
        if s.fbAlloc = true ∧ x.toNat < s.cfg.W.val ∧ y.toNat < s.cfg.H.val ∧ a = y.toNat * s.cfg.W.val + x.toNat then c
        else s.memRead a

/-- R115: FB_GET_PIXEL reads the cell `y * W + x` of an allocated surface, and 0x0000 elsewhere; only RESULT changes. -/
def Obligations.GetPixelReadsItsCell : Prop :=
  ∀ (s : State) (x y : Word), exec (.fbGetPixel x y) s = .next
    { s with result :=
        if s.fbAlloc = true ∧ x.toNat < s.cfg.W.val ∧ y.toNat < s.cfg.H.val then s.memRead (y.toNat * s.cfg.W.val + x.toNat)
        else 0#16 }

/-- R119: the four laws of the surface commands. -/
def Obligations.SurfaceLaws : Prop :=
  (∀ (s : State) (x y c : Word), s.cfg.W.val ≤ x.toNat ∨ s.cfg.H.val ≤ y.toNat →
      exec (.fbSetPixel x y c) s = .next s ∧ exec (.fbGetPixel x y) s = .next { s with result := 0#16 })
    ∧ (∀ (s : State) (x y v : Word), s.fb.wf = true → s.fbAlloc = true → x.toNat < s.cfg.W.val → y.toNat < s.cfg.H.val →
        ∃ t u, exec (.fbSetPixel x y v) s = .next t ∧ exec (.fbGetPixel x y) t = .next u ∧ u.result = v)
    ∧ (∀ s : State, ∃ t u, exec .fbRelease s = .next t ∧ exec .fbRelease t = .next u ∧ t.fbAlloc = false ∧ u.fbAlloc = false
        ∧ t.halted = s.halted ∧ u.halted = s.halted)
    ∧ (∀ s : State, ∃ t u, exec .fbRelease s = .next t ∧ exec .fbInit t = .next u ∧
        (u.result = 1#16 → ∀ a, a < s.cfg.W.val * s.cfg.H.val → u.memRead a = 0#16))

/-! Rasterization commands. -/

/-- R130, R131, R135: FB_DRAW_LINE and FB_DRAW_CIRCLE complete from every state and plot exactly the pixels of their step forms, each
clipped on its own: the cells of those pixels inside an allocated surface hold the colour, and nothing else changes. The step forms are
the spec's own decisions D10 and D11 from general knowledge (G4, G5; log entry 15). -/
def Obligations.LineAndCirclePaintTheirPixels : Prop :=
  ∀ s : State, s.fb.wf = true →
    (∀ x0 y0 x1 y1 c : Word, ∃ t, exec (.fbDrawLine x0 y0 x1 y1 c) s = .next t ∧ SameButCells s t
      ∧ Painted s t (s.plotCells (linePixels x0.toNat y0.toNat x1.toNat y1.toNat)) c)
    ∧ (∀ cx cy r c : Word, ∃ t, exec (.fbDrawCircle cx cy r c) s = .next t ∧ SameButCells s t
      ∧ Painted s t (s.plotCells (circlePixels cx.toNat cy.toNat r.toNat)) c)

/-- R132: the four laws of a line's pixels. Laws 1, 3 and 4 follow from the spec's own step form (D10, G4; log entry 15). -/
def Obligations.LineLaws : Prop :=
  ∀ x0 y0 x1 y1 : Int,
    (linePixels x0 y0 x1 y1).length = max (x1 - x0).natAbs (y1 - y0).natAbs + 1
    ∧ (((linePixels x0 y0 x1 y1).head? = some (x0, y0) ∧ (linePixels x0 y0 x1 y1).getLast? = some (x1, y1))
      ∨ ((linePixels x0 y0 x1 y1).head? = some (x1, y1) ∧ (linePixels x0 y0 x1 y1).getLast? = some (x0, y0)))
    ∧ (∀ k p q, (linePixels x0 y0 x1 y1)[k]? = some p → (linePixels x0 y0 x1 y1)[k + 1]? = some q →
        if (x1 - x0).natAbs < (y1 - y0).natAbs then q.2 = p.2 + 1 ∧ (q.1 - p.1).natAbs ≤ 1
        else q.1 = p.1 + 1 ∧ (q.2 - p.2).natAbs ≤ 1)
    ∧ (∀ p, p ∈ linePixels x1 y1 x0 y0 ↔ p ∈ linePixels x0 y0 x1 y1)

/-- R131: every pixel of a line lies within half a pixel of the true line, measured along the minor axis (twice the error times the
major extent is at most the major extent). It follows from the spec's own step form (D10, G4; log entry 15). -/
def Obligations.LinePixelsAreNearest : Prop :=
  ∀ x0 y0 x1 y1 px py : Int, (px, py) ∈ linePixels x0 y0 x1 y1 →
    2 * ((py - y0) * (x1 - x0) - (px - x0) * (y1 - y0)).natAbs ≤ max (x1 - x0).natAbs (y1 - y0).natAbs

/-- R133: FB_DRAW_RECT paints exactly the perimeter cells inside the surface. -/
def Obligations.DrawRectPaintsThePerimeter : Prop :=
  ∀ (s : State) (x y w h c : Word), s.fb.wf = true → ∃ t, exec (.fbDrawRect x y w h c) s = .next t ∧ SameButCells s t
    ∧ (∀ px py, px < s.cfg.W.val → py < s.cfg.H.val → t.memRead (py * s.cfg.W.val + px) =
        if s.fbAlloc = true ∧ (x.toNat ≤ px ∧ px < x.toNat + w.toNat) ∧ (y.toNat ≤ py ∧ py < y.toNat + h.toNat)
            ∧ (px = x.toNat ∨ px + 1 = x.toNat + w.toNat ∨ py = y.toNat ∨ py + 1 = y.toNat + h.toNat) then c
        else s.memRead (py * s.cfg.W.val + px))
    ∧ ∀ a, s.cfg.W.val * s.cfg.H.val ≤ a → t.memRead a = s.memRead a

/-- R134: FB_FILL_RECT fills the whole rectangle when it fits an allocated surface, and changes nothing otherwise. -/
def Obligations.FillRectIsAllOrNothing : Prop :=
  ∀ (s : State) (x y w h c : Word), s.fb.wf = true →
    ((s.fbAlloc = false ∨ s.cfg.W.val < x.toNat + w.toNat ∨ s.cfg.H.val < y.toNat + h.toNat) →
        exec (.fbFillRect x y w h c) s = .next s)
    ∧ (s.fbAlloc = true → x.toNat + w.toNat ≤ s.cfg.W.val → y.toNat + h.toNat ≤ s.cfg.H.val →
        ∃ t, exec (.fbFillRect x y w h c) s = .next t ∧ SameButCells s t
          ∧ (∀ px py, px < s.cfg.W.val → py < s.cfg.H.val → t.memRead (py * s.cfg.W.val + px) =
              if (x.toNat ≤ px ∧ px < x.toNat + w.toNat) ∧ (y.toNat ≤ py ∧ py < y.toNat + h.toNat) then c
              else s.memRead (py * s.cfg.W.val + px))
          ∧ ∀ a, s.cfg.W.val * s.cfg.H.val ≤ a → t.memRead a = s.memRead a)

/-- R136: the circle outline's offsets are symmetric under the eight maps and lie within one unit of the radius; the source's literal
reading of its property 3 fails at radius 4. They follow from the spec's own step form (D11, G5; log entry 15). -/
def Obligations.CircleOutlineLaws : Prop :=
  (∀ (cx cy : Int) (r : Nat) (u v : Int), (cx + u, cy + v) ∈ circlePixels cx cy r →
      (cx - u, cy + v) ∈ circlePixels cx cy r ∧ (cx + u, cy - v) ∈ circlePixels cx cy r
        ∧ (cx + v, cy + u) ∈ circlePixels cx cy r)
    ∧ (∀ (cx cy : Int) (r : Nat) (u v : Int), 1 ≤ r → (cx + u, cy + v) ∈ circlePixels cx cy r →
        ((r : Int) - 1) * (r - 1) < u * u + v * v ∧ u * u + v * v < (r + 1) * (r + 1))
    ∧ (1, 4) ∈ circlePixels 0 0 4 ∧ (3, 3) ∈ circlePixels 0 0 4

/-- R137: FB_FILL_CIRCLE paints exactly the cells of the disc inside the surface. -/
def Obligations.FillCirclePaintsTheDisc : Prop :=
  ∀ (s : State) (cx cy r c : Word), s.fb.wf = true → ∃ t, exec (.fbFillCircle cx cy r c) s = .next t ∧ SameButCells s t
    ∧ (∀ px py : Nat, px < s.cfg.W.val → py < s.cfg.H.val → t.memRead (py * s.cfg.W.val + px) =
        if s.fbAlloc = true
            ∧ ((px : Int) - cx.toNat) * (px - cx.toNat) + ((py : Int) - cy.toNat) * (py - cy.toNat) ≤ (r.toNat : Int) * r.toNat
        then c else s.memRead (py * s.cfg.W.val + px))
    ∧ ∀ a, s.cfg.W.val * s.cfg.H.val ≤ a → t.memRead a = s.memRead a

/-- R138: the number of cells of a disc of radius 0 to 7, no pixel counted twice, and for every radius from 2 an outline pixel outside
the disc. The last clause follows from the spec's own step form of the outline (D11, G5; log entry 15). -/
def Obligations.DiscCountsAndOutline : Prop :=
  (∀ cx cy : Int, (List.range 8).map (fun r => (diskPixels cx cy r).length) = [1, 5, 13, 29, 49, 81, 113, 149])
    ∧ (∀ (cx cy : Int) (r : Nat), (diskPixels cx cy r).Nodup)
    ∧ (∀ (cx cy : Int) (r : Nat), 2 ≤ r → ∃ p, p ∈ circlePixels cx cy r ∧ p ∉ diskPixels cx cy r)

/-! Glyph and text commands. -/

/-- R160, R164, R165, R172, R173, R85: a glyph command paints each cell of its footprint inside the surface by the glyph bit there (bit
`7 - col` of byte `row`): the foreground for a set bit, the background for a clear one unless the background is 0x0000. The bit layout is
the spec's own decision D15 (G6; log entry 11). -/
def Obligations.CharPaintsGlyphBits : Prop :=
  ∀ (s : State) (x y cpt fg bg : Word) (aux : Byte), s.fb.wf = true →
    ∀ (i : Instr) (k : Nat),
      (i = .fbDrawChar x y cpt fg bg ∧ k = 1) ∨ (i = .fbDrawCharScaled x y cpt fg bg aux ∧ k = min (max aux.toNat 1) 8) →
      ∃ t, exec i s = .next t ∧ SameButCells s t
        ∧ (∀ px py, px < s.cfg.W.val → py < s.cfg.H.val → t.memRead (py * s.cfg.W.val + px) =
            if s.fbAlloc = true ∧ (x.toNat ≤ px ∧ px < x.toNat + 8 * k) ∧ (y.toNat ≤ py ∧ py < y.toNat + 16 * k) then
              if ((glyphOf s.cfg cpt)[(py - y.toNat) / k]?.getD 0#8).getLsbD (7 - (px - x.toNat) / k) = true then fg
              else if bg ≠ 0#16 then bg else s.memRead (py * s.cfg.W.val + px)
            else s.memRead (py * s.cfg.W.val + px))
        ∧ ∀ a, s.cfg.W.val * s.cfg.H.val ≤ a → t.memRead a = s.memRead a

/-- R161, R162: the decoder's three outcomes, and the source's Cyrillic range. The bit assembly is the spec's from general knowledge
(G7; log entry 11). -/
def Obligations.Utf8DecoderForms : Prop :=
  (∀ (b0 : Byte) (rest : List Byte), b0.toNat ≤ 0x7F → utf8Decode (b0 :: rest) = some (BitVec.ofNat 16 b0.toNat, 1))
    ∧ (∀ (b0 b1 : Byte) (rest : List Byte), 0xC2 ≤ b0.toNat → b0.toNat ≤ 0xDF → 0x80 ≤ b1.toNat → b1.toNat ≤ 0xBF →
        utf8Decode (b0 :: b1 :: rest) = some (BitVec.ofNat 16 (b0.toNat % 32 * 64 + b1.toNat % 64), 2))
    ∧ (∀ (b0 : Byte) (rest : List Byte), 0x80 ≤ b0.toNat → b0.toNat ≤ 0xC1 ∨ 0xE0 ≤ b0.toNat → utf8Decode (b0 :: rest) = none)
    ∧ (∀ (b0 b1 : Byte) (rest : List Byte), 0xC2 ≤ b0.toNat → b0.toNat ≤ 0xDF → b1.toNat < 0x80 ∨ 0xBF < b1.toNat →
        utf8Decode (b0 :: b1 :: rest) = none)
    ∧ (∀ b0 : Byte, 0xC2 ≤ b0.toNat → utf8Decode [b0] = none)
    ∧ (∀ k : Nat, k < 48 → utf8Decode [0xD0#8, BitVec.ofNat 8 (0x90 + k)] = some (BitVec.ofNat 16 (0x0410 + k), 2))
    ∧ (∀ k : Nat, k < 16 → utf8Decode [0xD1#8, BitVec.ofNat 8 (0x80 + k)] = some (BitVec.ofNat 16 (0x0440 + k), 2))

/-- R161, R170: decoding the UTF-8 bytes of any code points from 1 to 0x7FF gives those code points, whatever follows a NUL.
The two-byte bit assembly is the spec's from general knowledge (G7; log entry 11). -/
def Obligations.Utf8RoundTrip : Prop :=
  ∀ (cpts : List Nat) (tail : List Byte), (∀ c ∈ cpts, 1 ≤ c ∧ c < 0x800) →
    codePoints true (cpts.flatMap utf8Encode) = cpts.map (fun c => some (BitVec.ofNat 16 c))
      ∧ codePoints true (cpts.flatMap utf8Encode ++ 0#8 :: tail) = cpts.map (fun c => some (BitVec.ofNat 16 c))

/-- R170, R171, R175, R176, R179: a string command draws the glyphs of its bytes before the first NUL, side by side, as many as fit to
the right edge, and nothing else. -/
def Obligations.StringDrawsTheGlyphsThatFit : Prop :=
  ∀ (s : State) (x y fg bg : Word) (bytes : List Byte) (aux : Byte) (i : Instr) (k : Nat),
    (i = .fbDrawString x y fg bg bytes ∧ k = 1) ∨ (i = .fbDrawStringScaled x y fg bg bytes aux ∧ k = min (max aux.toNat 1) 8) →
    let cpts := (bytes.takeWhile fun b => b ≠ 0#8).map fun b => BitVec.ofNat 16 b.toNat
    exec i s = .next (s.drawGlyphs x.toNat y.toNat fg bg k (cpts.take (glyphRoom s.cfg.W.val x.toNat k)))
      ∧ SameButCells s (s.drawGlyphs x.toNat y.toNat fg bg k (cpts.take (glyphRoom s.cfg.W.val x.toNat k)))

/-- R161, R170, R171, R174, R177 to R179: a UTF-8 string is a run of code points, with at most one malformed sequence, at its end. With
none, the command draws the glyphs that fit. With one, it draws the glyphs before it and takes MalformedUtf8 if they all fit, and
draws those that fit otherwise. -/
def Obligations.Utf8StringDrawsOrFaults : Prop :=
  ∀ (s : State) (x y fg bg : Word) (bytes : List Byte) (aux : Byte) (i : Instr) (k : Nat),
    (i = .fbDrawStringUtf8 x y fg bg bytes ∧ k = 1)
      ∨ (i = .fbDrawStringUtf8Scaled x y fg bg bytes aux ∧ k = min (max aux.toNat 1) 8) →
    (∃ cpts : List Word, codePoints true bytes = cpts.map some ∨ codePoints true bytes = cpts.map some ++ [none])
    ∧ (∀ cpts : List Word, codePoints true bytes = cpts.map some →
        exec i s = .next (s.drawGlyphs x.toNat y.toNat fg bg k (cpts.take (glyphRoom s.cfg.W.val x.toNat k))))
    ∧ (∀ cpts : List Word, codePoints true bytes = cpts.map some ++ [none] → cpts.length ≤ glyphRoom s.cfg.W.val x.toNat k →
        exec i s = .next
          { s.drawGlyphs x.toNat y.toNat fg bg k cpts with faultCode := 2#8, faultCp := s.cp, halted := true })
    ∧ (∀ cpts : List Word, codePoints true bytes = cpts.map some ++ [none] → glyphRoom s.cfg.W.val x.toNat k < cpts.length →
        exec i s = .next (s.drawGlyphs x.toNat y.toNat fg bg k (cpts.take (glyphRoom s.cfg.W.val x.toNat k))))

/-- R177: an ASCII-only string draws the same whether it is decoded as UTF-8 or not. -/
def Obligations.AsciiStringsNeedNoUtf8 : Prop :=
  ∀ (s : State) (x y fg bg : Word) (bytes : List Byte) (scale : Byte), (∀ b ∈ bytes, b.toNat < 0x80) →
    exec (.fbDrawStringUtf8 x y fg bg bytes) s = exec (.fbDrawString x y fg bg bytes) s
      ∧ exec (.fbDrawStringUtf8Scaled x y fg bg bytes scale) s = exec (.fbDrawStringScaled x y fg bg bytes scale) s

/-! Packer and serializer. -/

/-- R190, R191: the packed colour is the channels' top bits side by side, and only RESULT changes. -/
def Obligations.PackPlacesTheTopBits : Prop :=
  ∀ (s : State) (r g b : Byte), exec (.packRgb565 r g b) s
      = .next { s with result := r.extractLsb' 3 5 ++ g.extractLsb' 2 6 ++ b.extractLsb' 3 5 }

/-- R193: a send is one chip-select frame on the lines, and one event on the log with the transport's answer. -/
def Obligations.SendIsOneFrame : Prop :=
  ∀ (s : State) (kind : TxnKind) (bytes : List Byte),
    (s.send kind bytes).lines = s.lines ++
        [.setMode (decide (kind = .data)), .select true, .send bytes (s.sendAnswer 0), .select false]
      ∧ (s.send kind bytes).log = s.log ++ [.txn kind bytes (s.sendAnswer 0)]

/-- R200, R201: FLUSH of a bound, allocated surface when every chunk's send succeeds: the whole-panel window, the memory write, then
every chunk in address order; RESULT is 1 and nothing but the link's state changes beside it. The setup sends' answers do not matter.
The window's byte layout is the spec's own (D25, G3; log entry 11). -/
def Obligations.FlushSendsEveryChunk : Prop :=
  ∀ s : State, s.bound = true → s.fbAlloc = true →
    (∀ j, j < chunkCount s.cfg.chunkPixels.val → s.sendAnswer (5 + j) = true) →
    ∃ t, exec .flush s = .next t ∧ t.result = 1#16 ∧ SameButLink { s with result := 1#16 } t
      ∧ t.log = s.log ++ s.txns 0 (setupSends s.cfg 0 0 239 319
          ++ (List.range (chunkCount s.cfg.chunkPixels.val)).map s.chunkTxn)

/-- R200, R202: FLUSH when chunk `j` is the first whose send fails: chunks `0 .. j` are logged, chunk `j` with a failed answer, no later
chunk is sent, and RESULT is 0. The window's byte layout is the spec's own (D25, G3; log entry 11). -/
def Obligations.FlushAbortsAtTheFailedChunk : Prop :=
  ∀ (s : State) (j : Nat), s.bound = true → s.fbAlloc = true → j < chunkCount s.cfg.chunkPixels.val →
    (∀ i, i < j → s.sendAnswer (5 + i) = true) → s.sendAnswer (5 + j) = false →
    ∃ t, exec .flush s = .next t ∧ t.result = 0#16 ∧ SameButLink { s with result := 0#16 } t
      ∧ t.log = s.log ++ s.txns 0 (setupSends s.cfg 0 0 239 319 ++ (List.range (j + 1)).map s.chunkTxn)

/-- R200, R205, R237: unbound or unallocated, FLUSH sends nothing and sets RESULT to 0, and FLUSH_REGION changes nothing. -/
def Obligations.FlushNeedsABoundSurface : Prop :=
  ∀ s : State, s.bound = false ∨ s.fbAlloc = false →
    exec .flush s = .next { s with result := 0#16 } ∧ ∀ x y w h, exec (.flushRegion x y w h) s = .next s

/-- R203 to R206: FLUSH_REGION of a valid region of a bound, allocated surface sends its inclusive window, the memory write, and one
transaction a row, whatever the answers; an invalid region changes nothing. The window's byte layout is the spec's own (D25, G3; log
entry 11). -/
def Obligations.FlushRegionSendsEachRow : Prop :=
  ∀ (s : State) (x y w h : Word), s.bound = true → s.fbAlloc = true →
    ((1 ≤ w.toNat ∧ 1 ≤ h.toNat ∧ x.toNat + w.toNat ≤ 240 ∧ y.toNat + h.toNat ≤ 320) →
      ∃ t, exec (.flushRegion x y w h) s = .next t ∧ SameButLink s t
        ∧ t.log = s.log ++ s.txns 0 (setupSends s.cfg x.toNat y.toNat (x.toNat + w.toNat - 1) (y.toNat + h.toNat - 1)
            ++ (List.range h.toNat).map fun rr => (.data, s.cellBytes ((y.toNat + rr) * 240 + x.toNat) w.toNat)))
    ∧ (¬ (1 ≤ w.toNat ∧ 1 ≤ h.toNat ∧ x.toNat + w.toNat ≤ 240 ∧ y.toNat + h.toNat ≤ 320) →
      exec (.flushRegion x y w h) s = .next s)

/-- R214: PANEL_WRITE_PIXEL sends a 1x1 window, the memory write and the pixel's two bytes, whatever is bound or allocated; off the panel
it changes nothing. The window's byte layout is the spec's own (D25, G3; log entry 11). -/
def Obligations.PanelWritePixelSendsOnePixel : Prop :=
  ∀ (s : State) (x y c : Word),
    (x.toNat < 240 → y.toNat < 320 → ∃ t, exec (.panelWritePixel x y c) s = .next t ∧ SameButLink s t
      ∧ t.log = s.log ++ s.txns 0 (setupSends s.cfg x.toNat y.toNat x.toNat y.toNat
          ++ [(.data, [BitVec.ofNat 8 (c.toNat / 256), BitVec.ofNat 8 c.toNat])]))
    ∧ (240 ≤ x.toNat ∨ 320 ≤ y.toNat → exec (.panelWritePixel x y c) s = .next s)

/-- R215: for an in-range pixel, FLUSH after FB_SET_PIXEL sends at byte offset `2 * (y * 240 + x)` of its pixel data the two bytes that
PANEL_WRITE_PIXEL sends for it. -/
def Obligations.DirectAndBufferedPixelAgree : Prop :=
  ∀ (s : State) (x y c : Word), s.Inv → s.bound = true → s.fbAlloc = true → x.toNat < 240 → y.toNat < 320 →
    (∀ j, j < chunkCount s.cfg.chunkPixels.val → s.sendAnswer (5 + j) = true) →
    ∃ t u v pixel, exec (.fbSetPixel x y c) s = .next t ∧ exec .flush t = .next u ∧ exec (.panelWritePixel x y c) s = .next v
      ∧ ((((u.log.drop s.log.length).drop 5).flatMap eventData).drop (2 * (y.toNat * 240 + x.toNat))).take 2 = pixel
      ∧ ((v.log.drop s.log.length).drop 5).flatMap eventData = pixel
      ∧ pixel.length = 2

/-! Controller commands. -/

/-- R230, R231, R210: CTRL_INIT's whole event sequence and the state it leaves. The window's byte layout is the spec's own (D25, G3; log
entry 11). -/
def Obligations.CtrlInitSendsTheSequence : Prop :=
  ∀ s : State, ∃ t, exec .ctrlInit s = .next t
    ∧ SameButLink { s with rot := 0#2, inv := true, ready := true } t
    ∧ t.log = s.log ++ .pulse :: s.txns 0
        ([(.cmd, [s.cfg.cmdSlpout]), (.cmd, [s.cfg.cmdColmod]), (.data, [s.cfg.colmodValue]), (.cmd, [s.cfg.cmdMadctl]),
            (.data, [s.cfg.madctlRot[0]]), (.cmd, [s.cfg.cmdDispon]), (.cmd, [s.cfg.cmdInvon])]
          ++ setupSends s.cfg 0 0 239 319
          ++ (List.range (chunkCount s.cfg.chunkPixels.val)).map fun j =>
              (.data, List.replicate
                (2 * (min ((j + 1) * s.cfg.chunkPixels.val) 76800 - j * s.cfg.chunkPixels.val)) 0#8))

/-- R236: BIND_FB binds exactly a 240 x 320 surface and reports whether it did. -/
def Obligations.BindNeedsThePanelSize : Prop :=
  ∀ s : State,
    (s.cfg.W.val = 240 → s.cfg.H.val = 320 → exec .bindFb s = .next { s with bound := true, result := 1#16 })
    ∧ (s.cfg.W.val ≠ 240 ∨ s.cfg.H.val ≠ 320 → exec .bindFb s = .next { s with result := 0#16 })

/-- R238: UNBIND_FB clears the binding and nothing else. -/
def Obligations.UnbindClearsTheBinding : Prop :=
  ∀ s : State, exec .unbindFb s = .next { s with bound := false }

/-- R237: FB_RELEASE does not clear `bound`, and FB_INIT does not set it; binding and unbinding touch no store. -/
def Obligations.BindingAndLifecycleAreIndependent : Prop :=
  ∀ (i : Instr) (s t : State), exec i s = .next t →
    (i.opcode ∈ [Opcode.fbInit, .fbRelease] → t.bound = s.bound)
    ∧ (i.opcode ∈ [Opcode.bindFb, .unbindFb] → t.fbAlloc = s.fbAlloc ∧ t.fbStatic = s.fbStatic ∧ t.dynCells = s.dynCells
        ∧ t.poolCells = s.poolCells)

/-- R240: SET_ROTATION sends the addressing-mode command and the rotation's pattern, and sets `rot`. -/
def Obligations.SetRotationSendsThePattern : Prop :=
  ∀ (s : State) (rr : BitVec 2), ∃ t, exec (.setRotation rr) s = .next t ∧ SameButLink { s with rot := rr } t
    ∧ t.log = s.log ++ s.txns 0 [(.cmd, [s.cfg.cmdMadctl]), (.data, [s.cfg.madctlRot[rr.toFin]])]

/-- R243: SET_INVERSION sends the one inversion command and sets `inv`. -/
def Obligations.SetInversionSendsTheCommand : Prop :=
  ∀ (s : State) (v : Bool), ∃ t, exec (.setInversion v) s = .next t ∧ SameButLink { s with inv := v } t
    ∧ t.log = s.log ++ s.txns 0 [(.cmd, [if v = true then s.cfg.cmdInvon else s.cfg.cmdInvoff])]

/-! The host's side. -/

/-- R98, R276: the host can supply further words exactly while its stream stays shorter than `2^32` words. The words already there do not
change, nor does anything else of the state, and the invariant is kept. -/
def Obligations.HostSuppliesWithinItsDuty : Prop :=
  ∀ (s : State) (words : List Word),
    (s.stream.length + words.length < 2 ^ 32 →
      ∃ t, s.supply words = some t ∧ t = { s with stream := t.stream } ∧ t.stream.length = s.stream.length + words.length
        ∧ (∀ k, k < s.stream.length → t.stream[k]? = s.stream[k]?)
        ∧ (∀ k, k < words.length → t.stream[s.stream.length + k]? = words[k]?)
        ∧ (s.Inv → t.Inv))
    ∧ (2 ^ 32 ≤ s.stream.length + words.length → s.supply words = none)
end

