-- ==== Sys2Proof/Laws/Decode.lean ====
section
/-! SUPPORT. The small laws of the encoding: bytes and words, the opcode map, packed strings, and packet lengths. -/

namespace Sys2Proof

theorem toNat_hiByte (w : Word) : (hiByte w).toNat = w.toNat / 256 := by
  have := w.isLt
  simp [hiByte, BitVec.extractLsb'_toNat, Nat.shiftRight_eq_div_pow]
  omega

theorem toNat_loByte (w : Word) : (loByte w).toNat = w.toNat % 256 := by
  simp [loByte, BitVec.extractLsb'_toNat]

theorem toNat_wordOf (hi lo : Byte) : (wordOf hi lo).toNat = hi.toNat * 256 + lo.toNat := by
  have h : (wordOf hi lo).toNat = hi.toNat <<< 8 ||| lo.toNat := BitVec.toNat_append hi lo
  rw [h, ← Nat.shiftLeft_add_eq_or_of_lt lo.isLt, Nat.shiftLeft_eq]

@[simp] theorem hiByte_wordOf (hi lo : Byte) : hiByte (wordOf hi lo) = hi := by
  apply BitVec.eq_of_toNat_eq
  have := lo.isLt
  rw [toNat_hiByte, toNat_wordOf]
  omega

@[simp] theorem loByte_wordOf (hi lo : Byte) : loByte (wordOf hi lo) = lo := by
  apply BitVec.eq_of_toNat_eq
  have := lo.isLt
  rw [toNat_loByte, toNat_wordOf]
  omega

/-- A word is its two bytes. -/
@[simp] theorem wordOf_bytes (w : Word) : wordOf (hiByte w) (loByte w) = w := by
  apply BitVec.eq_of_toNat_eq
  rw [toNat_wordOf, toNat_hiByte, toNat_loByte]
  omega

/-- The opcode map finds each opcode by its byte (R87). -/
@[simp] theorem opcodeOf_opcodeByte (op : Opcode) : opcodeOf (opcodeByte op) = some op := by
  cases op <;> decide

/-- An opcode byte belongs to at most one row (R87). -/
theorem opcodeByte_of_opcodeOf {b : Byte} {op : Opcode} (h : opcodeOf b = some op) : opcodeByte op = b := by
  have := List.find?_some h
  simpa using this

/-- Every instruction's header has a legal `aux` (R88, R90). -/
@[simp] theorem auxLegal_aux (i : Instr) : auxLegal (opcodeAux i.opcode) i.aux = true := by
  cases i with
  | setRotation r => simp [Instr.opcode, Instr.aux, opcodeAux, auxLegal]; omega
  | setInversion v => cases v <;> decide
  | _ => simp [Instr.opcode, Instr.aux, opcodeAux, auxLegal]

/-- Packed string bytes are read back, whatever the padding byte and the words that follow (R84). -/
theorem stringBytes_packString (pad : Byte) (bytes : List Byte) (rest : List Word) :
    stringBytes bytes.length (packString pad bytes ++ rest) = some bytes := by
  induction bytes using packString.induct with
  | case1 => simp [stringBytes]
  | case2 b => simp [stringBytes, packString]
  | case3 b0 b1 l ih => simp [stringBytes, packString, ih]

/-- `n` string bytes take `(n + 1) / 2` words (R86). -/
@[simp] theorem length_packString (pad : Byte) (bytes : List Byte) :
    (packString pad bytes).length = (bytes.length + 1) / 2 := by
  induction bytes using packString.induct with
  | case1 => rfl
  | case2 b => simp [packString]
  | case3 b0 b1 l ih => simp [packString, ih]; omega

/-- What reading string bytes from a list of words says about the words (R84). -/
theorem packString_stringBytes {n : Nat} {ws : List Word} {bytes : List Byte} (h : stringBytes n ws = some bytes) :
    bytes.length = n ∧ ∃ pad rest, ws = packString pad bytes ++ rest := by
  induction n, ws using stringBytes.induct generalizing bytes with
  | case1 ws =>
    simp [stringBytes] at h
    subst h
    exact ⟨rfl, 0, ws, rfl⟩
  | case2 w ws =>
    simp [stringBytes] at h
    exact ⟨by simp [← h], hiByte w, ws, by simp [← h, packString]⟩
  | case3 n w ws ih =>
    simp only [stringBytes, Option.map_eq_some_iff] at h
    obtain ⟨l, hl, rfl⟩ := h
    obtain ⟨h1, pad, rest, h2⟩ := ih hl
    exact ⟨by simp [h1], pad, rest, by simp [packString, h2]⟩
  | case4 n => simp [stringBytes] at h

/-- A packet is as long as R86 says. -/
theorem length_encodePadded (pad : Byte) (i : Instr) : (encodePadded pad i).length = i.words := by
  cases i <;>
    simp [encodePadded, Instr.operandWords, Instr.words, Instr.opcode, opcodeFormat, Instr.stringLen, packetLen,
      stringOperands] <;> omega

theorem packetLen_pos (f : Format) (n : Nat) : 1 ≤ packetLen f n := by
  cases f <;> simp [packetLen] <;> omega

end Sys2Proof
end

