-- ==== Sys2Proof/Laws/State.lean ====
section
/-! SUPPORT. What each update of a state does to each field: one lemma for each field of each update, so that no later proof
unfolds a record update. -/

namespace Sys2Proof.Machine.State

/-! `setResult` (R32). -/

@[simp] theorem setResult_cfg (v : Word) (s : State) : (s.setResult v).cfg = s.cfg := rfl
@[simp] theorem setResult_stream (v : Word) (s : State) : (s.setResult v).stream = s.stream := rfl
@[simp] theorem setResult_allocAnswers (v : Word) (s : State) : (s.setResult v).allocAnswers = s.allocAnswers := rfl
@[simp] theorem setResult_allocDraws (v : Word) (s : State) : (s.setResult v).allocDraws = s.allocDraws := rfl
@[simp] theorem setResult_sendAnswers (v : Word) (s : State) : (s.setResult v).sendAnswers = s.sendAnswers := rfl
@[simp] theorem setResult_sendDraws (v : Word) (s : State) : (s.setResult v).sendDraws = s.sendDraws := rfl
@[simp] theorem setResult_cp (v : Word) (s : State) : (s.setResult v).cp = s.cp := rfl
@[simp] theorem setResult_result (v : Word) (s : State) : (s.setResult v).result = v := rfl
@[simp] theorem setResult_faultCode (v : Word) (s : State) : (s.setResult v).faultCode = s.faultCode := rfl
@[simp] theorem setResult_faultCp (v : Word) (s : State) : (s.setResult v).faultCp = s.faultCp := rfl
@[simp] theorem setResult_halted (v : Word) (s : State) : (s.setResult v).halted = s.halted := rfl
@[simp] theorem setResult_fbAlloc (v : Word) (s : State) : (s.setResult v).fbAlloc = s.fbAlloc := rfl
@[simp] theorem setResult_fbStatic (v : Word) (s : State) : (s.setResult v).fbStatic = s.fbStatic := rfl
@[simp] theorem setResult_dynCells (v : Word) (s : State) : (s.setResult v).dynCells = s.dynCells := rfl
@[simp] theorem setResult_poolCells (v : Word) (s : State) : (s.setResult v).poolCells = s.poolCells := rfl
@[simp] theorem setResult_bound (v : Word) (s : State) : (s.setResult v).bound = s.bound := rfl
@[simp] theorem setResult_rot (v : Word) (s : State) : (s.setResult v).rot = s.rot := rfl
@[simp] theorem setResult_inv (v : Word) (s : State) : (s.setResult v).inv = s.inv := rfl
@[simp] theorem setResult_ready (v : Word) (s : State) : (s.setResult v).ready = s.ready := rfl
@[simp] theorem setResult_xferBusy (v : Word) (s : State) : (s.setResult v).xferBusy = s.xferBusy := rfl
@[simp] theorem setResult_scratch (v : Word) (s : State) : (s.setResult v).scratch = s.scratch := rfl
@[simp] theorem setResult_log (v : Word) (s : State) : (s.setResult v).log = s.log := rfl

/-! `setBound` (R39). -/

@[simp] theorem setBound_cfg (v : Bool) (s : State) : (s.setBound v).cfg = s.cfg := rfl
@[simp] theorem setBound_stream (v : Bool) (s : State) : (s.setBound v).stream = s.stream := rfl
@[simp] theorem setBound_allocAnswers (v : Bool) (s : State) : (s.setBound v).allocAnswers = s.allocAnswers := rfl
@[simp] theorem setBound_allocDraws (v : Bool) (s : State) : (s.setBound v).allocDraws = s.allocDraws := rfl
@[simp] theorem setBound_sendAnswers (v : Bool) (s : State) : (s.setBound v).sendAnswers = s.sendAnswers := rfl
@[simp] theorem setBound_sendDraws (v : Bool) (s : State) : (s.setBound v).sendDraws = s.sendDraws := rfl
@[simp] theorem setBound_cp (v : Bool) (s : State) : (s.setBound v).cp = s.cp := rfl
@[simp] theorem setBound_result (v : Bool) (s : State) : (s.setBound v).result = s.result := rfl
@[simp] theorem setBound_faultCode (v : Bool) (s : State) : (s.setBound v).faultCode = s.faultCode := rfl
@[simp] theorem setBound_faultCp (v : Bool) (s : State) : (s.setBound v).faultCp = s.faultCp := rfl
@[simp] theorem setBound_halted (v : Bool) (s : State) : (s.setBound v).halted = s.halted := rfl
@[simp] theorem setBound_fbAlloc (v : Bool) (s : State) : (s.setBound v).fbAlloc = s.fbAlloc := rfl
@[simp] theorem setBound_fbStatic (v : Bool) (s : State) : (s.setBound v).fbStatic = s.fbStatic := rfl
@[simp] theorem setBound_dynCells (v : Bool) (s : State) : (s.setBound v).dynCells = s.dynCells := rfl
@[simp] theorem setBound_poolCells (v : Bool) (s : State) : (s.setBound v).poolCells = s.poolCells := rfl
@[simp] theorem setBound_bound (v : Bool) (s : State) : (s.setBound v).bound = v := rfl
@[simp] theorem setBound_rot (v : Bool) (s : State) : (s.setBound v).rot = s.rot := rfl
@[simp] theorem setBound_inv (v : Bool) (s : State) : (s.setBound v).inv = s.inv := rfl
@[simp] theorem setBound_ready (v : Bool) (s : State) : (s.setBound v).ready = s.ready := rfl
@[simp] theorem setBound_xferBusy (v : Bool) (s : State) : (s.setBound v).xferBusy = s.xferBusy := rfl
@[simp] theorem setBound_scratch (v : Bool) (s : State) : (s.setBound v).scratch = s.scratch := rfl
@[simp] theorem setBound_log (v : Bool) (s : State) : (s.setBound v).log = s.log := rfl

/-! `setRot` (R39). -/

@[simp] theorem setRot_cfg (v : BitVec 2) (s : State) : (s.setRot v).cfg = s.cfg := rfl
@[simp] theorem setRot_stream (v : BitVec 2) (s : State) : (s.setRot v).stream = s.stream := rfl
@[simp] theorem setRot_allocAnswers (v : BitVec 2) (s : State) : (s.setRot v).allocAnswers = s.allocAnswers := rfl
@[simp] theorem setRot_allocDraws (v : BitVec 2) (s : State) : (s.setRot v).allocDraws = s.allocDraws := rfl
@[simp] theorem setRot_sendAnswers (v : BitVec 2) (s : State) : (s.setRot v).sendAnswers = s.sendAnswers := rfl
@[simp] theorem setRot_sendDraws (v : BitVec 2) (s : State) : (s.setRot v).sendDraws = s.sendDraws := rfl
@[simp] theorem setRot_cp (v : BitVec 2) (s : State) : (s.setRot v).cp = s.cp := rfl
@[simp] theorem setRot_result (v : BitVec 2) (s : State) : (s.setRot v).result = s.result := rfl
@[simp] theorem setRot_faultCode (v : BitVec 2) (s : State) : (s.setRot v).faultCode = s.faultCode := rfl
@[simp] theorem setRot_faultCp (v : BitVec 2) (s : State) : (s.setRot v).faultCp = s.faultCp := rfl
@[simp] theorem setRot_halted (v : BitVec 2) (s : State) : (s.setRot v).halted = s.halted := rfl
@[simp] theorem setRot_fbAlloc (v : BitVec 2) (s : State) : (s.setRot v).fbAlloc = s.fbAlloc := rfl
@[simp] theorem setRot_fbStatic (v : BitVec 2) (s : State) : (s.setRot v).fbStatic = s.fbStatic := rfl
@[simp] theorem setRot_dynCells (v : BitVec 2) (s : State) : (s.setRot v).dynCells = s.dynCells := rfl
@[simp] theorem setRot_poolCells (v : BitVec 2) (s : State) : (s.setRot v).poolCells = s.poolCells := rfl
@[simp] theorem setRot_bound (v : BitVec 2) (s : State) : (s.setRot v).bound = s.bound := rfl
@[simp] theorem setRot_rot (v : BitVec 2) (s : State) : (s.setRot v).rot = v := rfl
@[simp] theorem setRot_inv (v : BitVec 2) (s : State) : (s.setRot v).inv = s.inv := rfl
@[simp] theorem setRot_ready (v : BitVec 2) (s : State) : (s.setRot v).ready = s.ready := rfl
@[simp] theorem setRot_xferBusy (v : BitVec 2) (s : State) : (s.setRot v).xferBusy = s.xferBusy := rfl
@[simp] theorem setRot_scratch (v : BitVec 2) (s : State) : (s.setRot v).scratch = s.scratch := rfl
@[simp] theorem setRot_log (v : BitVec 2) (s : State) : (s.setRot v).log = s.log := rfl

/-! `setInv` (R39). -/

@[simp] theorem setInv_cfg (v : Bool) (s : State) : (s.setInv v).cfg = s.cfg := rfl
@[simp] theorem setInv_stream (v : Bool) (s : State) : (s.setInv v).stream = s.stream := rfl
@[simp] theorem setInv_allocAnswers (v : Bool) (s : State) : (s.setInv v).allocAnswers = s.allocAnswers := rfl
@[simp] theorem setInv_allocDraws (v : Bool) (s : State) : (s.setInv v).allocDraws = s.allocDraws := rfl
@[simp] theorem setInv_sendAnswers (v : Bool) (s : State) : (s.setInv v).sendAnswers = s.sendAnswers := rfl
@[simp] theorem setInv_sendDraws (v : Bool) (s : State) : (s.setInv v).sendDraws = s.sendDraws := rfl
@[simp] theorem setInv_cp (v : Bool) (s : State) : (s.setInv v).cp = s.cp := rfl
@[simp] theorem setInv_result (v : Bool) (s : State) : (s.setInv v).result = s.result := rfl
@[simp] theorem setInv_faultCode (v : Bool) (s : State) : (s.setInv v).faultCode = s.faultCode := rfl
@[simp] theorem setInv_faultCp (v : Bool) (s : State) : (s.setInv v).faultCp = s.faultCp := rfl
@[simp] theorem setInv_halted (v : Bool) (s : State) : (s.setInv v).halted = s.halted := rfl
@[simp] theorem setInv_fbAlloc (v : Bool) (s : State) : (s.setInv v).fbAlloc = s.fbAlloc := rfl
@[simp] theorem setInv_fbStatic (v : Bool) (s : State) : (s.setInv v).fbStatic = s.fbStatic := rfl
@[simp] theorem setInv_dynCells (v : Bool) (s : State) : (s.setInv v).dynCells = s.dynCells := rfl
@[simp] theorem setInv_poolCells (v : Bool) (s : State) : (s.setInv v).poolCells = s.poolCells := rfl
@[simp] theorem setInv_bound (v : Bool) (s : State) : (s.setInv v).bound = s.bound := rfl
@[simp] theorem setInv_rot (v : Bool) (s : State) : (s.setInv v).rot = s.rot := rfl
@[simp] theorem setInv_inv (v : Bool) (s : State) : (s.setInv v).inv = v := rfl
@[simp] theorem setInv_ready (v : Bool) (s : State) : (s.setInv v).ready = s.ready := rfl
@[simp] theorem setInv_xferBusy (v : Bool) (s : State) : (s.setInv v).xferBusy = s.xferBusy := rfl
@[simp] theorem setInv_scratch (v : Bool) (s : State) : (s.setInv v).scratch = s.scratch := rfl
@[simp] theorem setInv_log (v : Bool) (s : State) : (s.setInv v).log = s.log := rfl

/-! `setReady` (R39). -/

@[simp] theorem setReady_cfg (v : Bool) (s : State) : (s.setReady v).cfg = s.cfg := rfl
@[simp] theorem setReady_stream (v : Bool) (s : State) : (s.setReady v).stream = s.stream := rfl
@[simp] theorem setReady_allocAnswers (v : Bool) (s : State) : (s.setReady v).allocAnswers = s.allocAnswers := rfl
@[simp] theorem setReady_allocDraws (v : Bool) (s : State) : (s.setReady v).allocDraws = s.allocDraws := rfl
@[simp] theorem setReady_sendAnswers (v : Bool) (s : State) : (s.setReady v).sendAnswers = s.sendAnswers := rfl
@[simp] theorem setReady_sendDraws (v : Bool) (s : State) : (s.setReady v).sendDraws = s.sendDraws := rfl
@[simp] theorem setReady_cp (v : Bool) (s : State) : (s.setReady v).cp = s.cp := rfl
@[simp] theorem setReady_result (v : Bool) (s : State) : (s.setReady v).result = s.result := rfl
@[simp] theorem setReady_faultCode (v : Bool) (s : State) : (s.setReady v).faultCode = s.faultCode := rfl
@[simp] theorem setReady_faultCp (v : Bool) (s : State) : (s.setReady v).faultCp = s.faultCp := rfl
@[simp] theorem setReady_halted (v : Bool) (s : State) : (s.setReady v).halted = s.halted := rfl
@[simp] theorem setReady_fbAlloc (v : Bool) (s : State) : (s.setReady v).fbAlloc = s.fbAlloc := rfl
@[simp] theorem setReady_fbStatic (v : Bool) (s : State) : (s.setReady v).fbStatic = s.fbStatic := rfl
@[simp] theorem setReady_dynCells (v : Bool) (s : State) : (s.setReady v).dynCells = s.dynCells := rfl
@[simp] theorem setReady_poolCells (v : Bool) (s : State) : (s.setReady v).poolCells = s.poolCells := rfl
@[simp] theorem setReady_bound (v : Bool) (s : State) : (s.setReady v).bound = s.bound := rfl
@[simp] theorem setReady_rot (v : Bool) (s : State) : (s.setReady v).rot = s.rot := rfl
@[simp] theorem setReady_inv (v : Bool) (s : State) : (s.setReady v).inv = s.inv := rfl
@[simp] theorem setReady_ready (v : Bool) (s : State) : (s.setReady v).ready = v := rfl
@[simp] theorem setReady_xferBusy (v : Bool) (s : State) : (s.setReady v).xferBusy = s.xferBusy := rfl
@[simp] theorem setReady_scratch (v : Bool) (s : State) : (s.setReady v).scratch = s.scratch := rfl
@[simp] theorem setReady_log (v : Bool) (s : State) : (s.setReady v).log = s.log := rfl

/-! `usePool` (R110). -/

@[simp] theorem usePool_cfg (s : State) : s.usePool.cfg = s.cfg := rfl
@[simp] theorem usePool_stream (s : State) : s.usePool.stream = s.stream := rfl
@[simp] theorem usePool_allocAnswers (s : State) : s.usePool.allocAnswers = s.allocAnswers := rfl
@[simp] theorem usePool_allocDraws (s : State) : s.usePool.allocDraws = s.allocDraws := rfl
@[simp] theorem usePool_sendAnswers (s : State) : s.usePool.sendAnswers = s.sendAnswers := rfl
@[simp] theorem usePool_sendDraws (s : State) : s.usePool.sendDraws = s.sendDraws := rfl
@[simp] theorem usePool_cp (s : State) : s.usePool.cp = s.cp := rfl
@[simp] theorem usePool_result (s : State) : s.usePool.result = s.result := rfl
@[simp] theorem usePool_faultCode (s : State) : s.usePool.faultCode = s.faultCode := rfl
@[simp] theorem usePool_faultCp (s : State) : s.usePool.faultCp = s.faultCp := rfl
@[simp] theorem usePool_halted (s : State) : s.usePool.halted = s.halted := rfl
@[simp] theorem usePool_fbAlloc (s : State) : s.usePool.fbAlloc = true := rfl
@[simp] theorem usePool_fbStatic (s : State) : s.usePool.fbStatic = true := rfl
@[simp] theorem usePool_dynCells (s : State) : s.usePool.dynCells = s.dynCells := rfl
@[simp] theorem usePool_poolCells (s : State) : s.usePool.poolCells = s.poolCells := rfl
@[simp] theorem usePool_bound (s : State) : s.usePool.bound = s.bound := rfl
@[simp] theorem usePool_rot (s : State) : s.usePool.rot = s.rot := rfl
@[simp] theorem usePool_inv (s : State) : s.usePool.inv = s.inv := rfl
@[simp] theorem usePool_ready (s : State) : s.usePool.ready = s.ready := rfl
@[simp] theorem usePool_xferBusy (s : State) : s.usePool.xferBusy = s.xferBusy := rfl
@[simp] theorem usePool_scratch (s : State) : s.usePool.scratch = s.scratch := rfl
@[simp] theorem usePool_log (s : State) : s.usePool.log = s.log := rfl

/-! `useFreshStore` (R110). -/

@[simp] theorem useFreshStore_cfg (s : State) : s.useFreshStore.cfg = s.cfg := rfl
@[simp] theorem useFreshStore_stream (s : State) : s.useFreshStore.stream = s.stream := rfl
@[simp] theorem useFreshStore_allocAnswers (s : State) : s.useFreshStore.allocAnswers = s.allocAnswers := rfl
@[simp] theorem useFreshStore_allocDraws (s : State) : s.useFreshStore.allocDraws = s.allocDraws := rfl
@[simp] theorem useFreshStore_sendAnswers (s : State) : s.useFreshStore.sendAnswers = s.sendAnswers := rfl
@[simp] theorem useFreshStore_sendDraws (s : State) : s.useFreshStore.sendDraws = s.sendDraws := rfl
@[simp] theorem useFreshStore_cp (s : State) : s.useFreshStore.cp = s.cp := rfl
@[simp] theorem useFreshStore_result (s : State) : s.useFreshStore.result = s.result := rfl
@[simp] theorem useFreshStore_faultCode (s : State) : s.useFreshStore.faultCode = s.faultCode := rfl
@[simp] theorem useFreshStore_faultCp (s : State) : s.useFreshStore.faultCp = s.faultCp := rfl
@[simp] theorem useFreshStore_halted (s : State) : s.useFreshStore.halted = s.halted := rfl
@[simp] theorem useFreshStore_fbAlloc (s : State) : s.useFreshStore.fbAlloc = true := rfl
@[simp] theorem useFreshStore_fbStatic (s : State) : s.useFreshStore.fbStatic = false := rfl
@[simp] theorem useFreshStore_dynCells (s : State) : s.useFreshStore.dynCells = [] := rfl
@[simp] theorem useFreshStore_poolCells (s : State) : s.useFreshStore.poolCells = s.poolCells := rfl
@[simp] theorem useFreshStore_bound (s : State) : s.useFreshStore.bound = s.bound := rfl
@[simp] theorem useFreshStore_rot (s : State) : s.useFreshStore.rot = s.rot := rfl
@[simp] theorem useFreshStore_inv (s : State) : s.useFreshStore.inv = s.inv := rfl
@[simp] theorem useFreshStore_ready (s : State) : s.useFreshStore.ready = s.ready := rfl
@[simp] theorem useFreshStore_xferBusy (s : State) : s.useFreshStore.xferBusy = s.xferBusy := rfl
@[simp] theorem useFreshStore_scratch (s : State) : s.useFreshStore.scratch = s.scratch := rfl
@[simp] theorem useFreshStore_log (s : State) : s.useFreshStore.log = s.log := rfl

/-! `dropStore` (R112). -/

@[simp] theorem dropStore_cfg (s : State) : s.dropStore.cfg = s.cfg := rfl
@[simp] theorem dropStore_stream (s : State) : s.dropStore.stream = s.stream := rfl
@[simp] theorem dropStore_allocAnswers (s : State) : s.dropStore.allocAnswers = s.allocAnswers := rfl
@[simp] theorem dropStore_allocDraws (s : State) : s.dropStore.allocDraws = s.allocDraws := rfl
@[simp] theorem dropStore_sendAnswers (s : State) : s.dropStore.sendAnswers = s.sendAnswers := rfl
@[simp] theorem dropStore_sendDraws (s : State) : s.dropStore.sendDraws = s.sendDraws := rfl
@[simp] theorem dropStore_cp (s : State) : s.dropStore.cp = s.cp := rfl
@[simp] theorem dropStore_result (s : State) : s.dropStore.result = s.result := rfl
@[simp] theorem dropStore_faultCode (s : State) : s.dropStore.faultCode = s.faultCode := rfl
@[simp] theorem dropStore_faultCp (s : State) : s.dropStore.faultCp = s.faultCp := rfl
@[simp] theorem dropStore_halted (s : State) : s.dropStore.halted = s.halted := rfl
@[simp] theorem dropStore_fbAlloc (s : State) : s.dropStore.fbAlloc = false := rfl
@[simp] theorem dropStore_fbStatic (s : State) : s.dropStore.fbStatic = false := rfl
@[simp] theorem dropStore_dynCells (s : State) : s.dropStore.dynCells = [] := rfl
@[simp] theorem dropStore_poolCells (s : State) : s.dropStore.poolCells = s.poolCells := rfl
@[simp] theorem dropStore_bound (s : State) : s.dropStore.bound = s.bound := rfl
@[simp] theorem dropStore_rot (s : State) : s.dropStore.rot = s.rot := rfl
@[simp] theorem dropStore_inv (s : State) : s.dropStore.inv = s.inv := rfl
@[simp] theorem dropStore_ready (s : State) : s.dropStore.ready = s.ready := rfl
@[simp] theorem dropStore_xferBusy (s : State) : s.dropStore.xferBusy = s.xferBusy := rfl
@[simp] theorem dropStore_scratch (s : State) : s.dropStore.scratch = s.scratch := rfl
@[simp] theorem dropStore_log (s : State) : s.dropStore.log = s.log := rfl

/-! `drawAlloc` (R111). -/

@[simp] theorem drawAlloc_cfg (s : State) : s.drawAlloc.cfg = s.cfg := rfl
@[simp] theorem drawAlloc_stream (s : State) : s.drawAlloc.stream = s.stream := rfl
@[simp] theorem drawAlloc_allocAnswers (s : State) : s.drawAlloc.allocAnswers = s.allocAnswers.tail := rfl
@[simp] theorem drawAlloc_allocDraws (s : State) : s.drawAlloc.allocDraws = s.allocDraws + 1 := rfl
@[simp] theorem drawAlloc_sendAnswers (s : State) : s.drawAlloc.sendAnswers = s.sendAnswers := rfl
@[simp] theorem drawAlloc_sendDraws (s : State) : s.drawAlloc.sendDraws = s.sendDraws := rfl
@[simp] theorem drawAlloc_cp (s : State) : s.drawAlloc.cp = s.cp := rfl
@[simp] theorem drawAlloc_result (s : State) : s.drawAlloc.result = s.result := rfl
@[simp] theorem drawAlloc_faultCode (s : State) : s.drawAlloc.faultCode = s.faultCode := rfl
@[simp] theorem drawAlloc_faultCp (s : State) : s.drawAlloc.faultCp = s.faultCp := rfl
@[simp] theorem drawAlloc_halted (s : State) : s.drawAlloc.halted = s.halted := rfl
@[simp] theorem drawAlloc_fbAlloc (s : State) : s.drawAlloc.fbAlloc = s.fbAlloc := rfl
@[simp] theorem drawAlloc_fbStatic (s : State) : s.drawAlloc.fbStatic = s.fbStatic := rfl
@[simp] theorem drawAlloc_dynCells (s : State) : s.drawAlloc.dynCells = s.dynCells := rfl
@[simp] theorem drawAlloc_poolCells (s : State) : s.drawAlloc.poolCells = s.poolCells := rfl
@[simp] theorem drawAlloc_bound (s : State) : s.drawAlloc.bound = s.bound := rfl
@[simp] theorem drawAlloc_rot (s : State) : s.drawAlloc.rot = s.rot := rfl
@[simp] theorem drawAlloc_inv (s : State) : s.drawAlloc.inv = s.inv := rfl
@[simp] theorem drawAlloc_ready (s : State) : s.drawAlloc.ready = s.ready := rfl
@[simp] theorem drawAlloc_xferBusy (s : State) : s.drawAlloc.xferBusy = s.xferBusy := rfl
@[simp] theorem drawAlloc_scratch (s : State) : s.drawAlloc.scratch = s.scratch := rfl
@[simp] theorem drawAlloc_log (s : State) : s.drawAlloc.log = s.log := rfl

/-! `send` (R193). -/

@[simp] theorem send_cfg (k : TxnKind) (b : List Byte) (s : State) : (s.send k b).cfg = s.cfg := rfl
@[simp] theorem send_stream (k : TxnKind) (b : List Byte) (s : State) : (s.send k b).stream = s.stream := rfl
@[simp] theorem send_allocAnswers (k : TxnKind) (b : List Byte) (s : State) : (s.send k b).allocAnswers = s.allocAnswers := rfl
@[simp] theorem send_allocDraws (k : TxnKind) (b : List Byte) (s : State) : (s.send k b).allocDraws = s.allocDraws := rfl
@[simp] theorem send_sendAnswers (k : TxnKind) (b : List Byte) (s : State) : (s.send k b).sendAnswers = s.sendAnswers.tail := rfl
@[simp] theorem send_sendDraws (k : TxnKind) (b : List Byte) (s : State) : (s.send k b).sendDraws = s.sendDraws + 1 := rfl
@[simp] theorem send_cp (k : TxnKind) (b : List Byte) (s : State) : (s.send k b).cp = s.cp := rfl
@[simp] theorem send_result (k : TxnKind) (b : List Byte) (s : State) : (s.send k b).result = s.result := rfl
@[simp] theorem send_faultCode (k : TxnKind) (b : List Byte) (s : State) : (s.send k b).faultCode = s.faultCode := rfl
@[simp] theorem send_faultCp (k : TxnKind) (b : List Byte) (s : State) : (s.send k b).faultCp = s.faultCp := rfl
@[simp] theorem send_halted (k : TxnKind) (b : List Byte) (s : State) : (s.send k b).halted = s.halted := rfl
@[simp] theorem send_fbAlloc (k : TxnKind) (b : List Byte) (s : State) : (s.send k b).fbAlloc = s.fbAlloc := rfl
@[simp] theorem send_fbStatic (k : TxnKind) (b : List Byte) (s : State) : (s.send k b).fbStatic = s.fbStatic := rfl
@[simp] theorem send_dynCells (k : TxnKind) (b : List Byte) (s : State) : (s.send k b).dynCells = s.dynCells := rfl
@[simp] theorem send_poolCells (k : TxnKind) (b : List Byte) (s : State) : (s.send k b).poolCells = s.poolCells := rfl
@[simp] theorem send_bound (k : TxnKind) (b : List Byte) (s : State) : (s.send k b).bound = s.bound := rfl
@[simp] theorem send_rot (k : TxnKind) (b : List Byte) (s : State) : (s.send k b).rot = s.rot := rfl
@[simp] theorem send_inv (k : TxnKind) (b : List Byte) (s : State) : (s.send k b).inv = s.inv := rfl
@[simp] theorem send_ready (k : TxnKind) (b : List Byte) (s : State) : (s.send k b).ready = s.ready := rfl
@[simp] theorem send_xferBusy (k : TxnKind) (b : List Byte) (s : State) : (s.send k b).xferBusy = s.xferBusy := rfl
@[simp] theorem send_scratch (k : TxnKind) (b : List Byte) (s : State) : (s.send k b).scratch = s.scratch := rfl
@[simp] theorem send_log (k : TxnKind) (b : List Byte) (s : State) : (s.send k b).log = s.log ++ [.txn k b (s.sendAnswer 0)] := rfl

/-! `pulse` (R231). -/

@[simp] theorem pulse_cfg (s : State) : s.pulse.cfg = s.cfg := rfl
@[simp] theorem pulse_stream (s : State) : s.pulse.stream = s.stream := rfl
@[simp] theorem pulse_allocAnswers (s : State) : s.pulse.allocAnswers = s.allocAnswers := rfl
@[simp] theorem pulse_allocDraws (s : State) : s.pulse.allocDraws = s.allocDraws := rfl
@[simp] theorem pulse_sendAnswers (s : State) : s.pulse.sendAnswers = s.sendAnswers := rfl
@[simp] theorem pulse_sendDraws (s : State) : s.pulse.sendDraws = s.sendDraws := rfl
@[simp] theorem pulse_cp (s : State) : s.pulse.cp = s.cp := rfl
@[simp] theorem pulse_result (s : State) : s.pulse.result = s.result := rfl
@[simp] theorem pulse_faultCode (s : State) : s.pulse.faultCode = s.faultCode := rfl
@[simp] theorem pulse_faultCp (s : State) : s.pulse.faultCp = s.faultCp := rfl
@[simp] theorem pulse_halted (s : State) : s.pulse.halted = s.halted := rfl
@[simp] theorem pulse_fbAlloc (s : State) : s.pulse.fbAlloc = s.fbAlloc := rfl
@[simp] theorem pulse_fbStatic (s : State) : s.pulse.fbStatic = s.fbStatic := rfl
@[simp] theorem pulse_dynCells (s : State) : s.pulse.dynCells = s.dynCells := rfl
@[simp] theorem pulse_poolCells (s : State) : s.pulse.poolCells = s.poolCells := rfl
@[simp] theorem pulse_bound (s : State) : s.pulse.bound = s.bound := rfl
@[simp] theorem pulse_rot (s : State) : s.pulse.rot = s.rot := rfl
@[simp] theorem pulse_inv (s : State) : s.pulse.inv = s.inv := rfl
@[simp] theorem pulse_ready (s : State) : s.pulse.ready = s.ready := rfl
@[simp] theorem pulse_xferBusy (s : State) : s.pulse.xferBusy = s.xferBusy := rfl
@[simp] theorem pulse_scratch (s : State) : s.pulse.scratch = s.scratch := rfl
@[simp] theorem pulse_log (s : State) : s.pulse.log = s.log ++ [.pulse] := rfl

/-! `writeScratch` (R40). -/

@[simp] theorem writeScratch_cfg (b : List Byte) (s : State) : (s.writeScratch b).cfg = s.cfg := rfl
@[simp] theorem writeScratch_stream (b : List Byte) (s : State) : (s.writeScratch b).stream = s.stream := rfl
@[simp] theorem writeScratch_allocAnswers (b : List Byte) (s : State) : (s.writeScratch b).allocAnswers = s.allocAnswers := rfl
@[simp] theorem writeScratch_allocDraws (b : List Byte) (s : State) : (s.writeScratch b).allocDraws = s.allocDraws := rfl
@[simp] theorem writeScratch_sendAnswers (b : List Byte) (s : State) : (s.writeScratch b).sendAnswers = s.sendAnswers := rfl
@[simp] theorem writeScratch_sendDraws (b : List Byte) (s : State) : (s.writeScratch b).sendDraws = s.sendDraws := rfl
@[simp] theorem writeScratch_cp (b : List Byte) (s : State) : (s.writeScratch b).cp = s.cp := rfl
@[simp] theorem writeScratch_result (b : List Byte) (s : State) : (s.writeScratch b).result = s.result := rfl
@[simp] theorem writeScratch_faultCode (b : List Byte) (s : State) : (s.writeScratch b).faultCode = s.faultCode := rfl
@[simp] theorem writeScratch_faultCp (b : List Byte) (s : State) : (s.writeScratch b).faultCp = s.faultCp := rfl
@[simp] theorem writeScratch_halted (b : List Byte) (s : State) : (s.writeScratch b).halted = s.halted := rfl
@[simp] theorem writeScratch_fbAlloc (b : List Byte) (s : State) : (s.writeScratch b).fbAlloc = s.fbAlloc := rfl
@[simp] theorem writeScratch_fbStatic (b : List Byte) (s : State) : (s.writeScratch b).fbStatic = s.fbStatic := rfl
@[simp] theorem writeScratch_dynCells (b : List Byte) (s : State) : (s.writeScratch b).dynCells = s.dynCells := rfl
@[simp] theorem writeScratch_poolCells (b : List Byte) (s : State) : (s.writeScratch b).poolCells = s.poolCells := rfl
@[simp] theorem writeScratch_bound (b : List Byte) (s : State) : (s.writeScratch b).bound = s.bound := rfl
@[simp] theorem writeScratch_rot (b : List Byte) (s : State) : (s.writeScratch b).rot = s.rot := rfl
@[simp] theorem writeScratch_inv (b : List Byte) (s : State) : (s.writeScratch b).inv = s.inv := rfl
@[simp] theorem writeScratch_ready (b : List Byte) (s : State) : (s.writeScratch b).ready = s.ready := rfl
@[simp] theorem writeScratch_xferBusy (b : List Byte) (s : State) : (s.writeScratch b).xferBusy = s.xferBusy := rfl
@[simp] theorem writeScratch_scratch (b : List Byte) (s : State) : (s.writeScratch b).scratch = b ++ s.scratch.drop b.length := rfl
@[simp] theorem writeScratch_log (b : List Byte) (s : State) : (s.writeScratch b).log = s.log := rfl

/-! `sendPixels` (R196). -/

@[simp] theorem sendPixels_cfg (b : List Byte) (s : State) : (s.sendPixels b).cfg = s.cfg := rfl
@[simp] theorem sendPixels_stream (b : List Byte) (s : State) : (s.sendPixels b).stream = s.stream := rfl
@[simp] theorem sendPixels_allocAnswers (b : List Byte) (s : State) : (s.sendPixels b).allocAnswers = s.allocAnswers := rfl
@[simp] theorem sendPixels_allocDraws (b : List Byte) (s : State) : (s.sendPixels b).allocDraws = s.allocDraws := rfl
@[simp] theorem sendPixels_sendAnswers (b : List Byte) (s : State) : (s.sendPixels b).sendAnswers = s.sendAnswers.tail := rfl
@[simp] theorem sendPixels_sendDraws (b : List Byte) (s : State) : (s.sendPixels b).sendDraws = s.sendDraws + 1 := rfl
@[simp] theorem sendPixels_cp (b : List Byte) (s : State) : (s.sendPixels b).cp = s.cp := rfl
@[simp] theorem sendPixels_result (b : List Byte) (s : State) : (s.sendPixels b).result = s.result := rfl
@[simp] theorem sendPixels_faultCode (b : List Byte) (s : State) : (s.sendPixels b).faultCode = s.faultCode := rfl
@[simp] theorem sendPixels_faultCp (b : List Byte) (s : State) : (s.sendPixels b).faultCp = s.faultCp := rfl
@[simp] theorem sendPixels_halted (b : List Byte) (s : State) : (s.sendPixels b).halted = s.halted := rfl
@[simp] theorem sendPixels_fbAlloc (b : List Byte) (s : State) : (s.sendPixels b).fbAlloc = s.fbAlloc := rfl
@[simp] theorem sendPixels_fbStatic (b : List Byte) (s : State) : (s.sendPixels b).fbStatic = s.fbStatic := rfl
@[simp] theorem sendPixels_dynCells (b : List Byte) (s : State) : (s.sendPixels b).dynCells = s.dynCells := rfl
@[simp] theorem sendPixels_poolCells (b : List Byte) (s : State) : (s.sendPixels b).poolCells = s.poolCells := rfl
@[simp] theorem sendPixels_bound (b : List Byte) (s : State) : (s.sendPixels b).bound = s.bound := rfl
@[simp] theorem sendPixels_rot (b : List Byte) (s : State) : (s.sendPixels b).rot = s.rot := rfl
@[simp] theorem sendPixels_inv (b : List Byte) (s : State) : (s.sendPixels b).inv = s.inv := rfl
@[simp] theorem sendPixels_ready (b : List Byte) (s : State) : (s.sendPixels b).ready = s.ready := rfl
@[simp] theorem sendPixels_xferBusy (b : List Byte) (s : State) : (s.sendPixels b).xferBusy = s.xferBusy := rfl
@[simp] theorem sendPixels_scratch (b : List Byte) (s : State) : (s.sendPixels b).scratch = b ++ s.scratch.drop b.length := rfl
@[simp] theorem sendPixels_log (b : List Byte) (s : State) :
    (s.sendPixels b).log = s.log ++ [.txn .data b (s.sendAnswer 0)] := by
  simp [sendPixels, sendAnswer]

/-! `raise` (R251). -/

@[simp] theorem raise_cfg (f : FaultKind) (s : State) : (s.raise f).cfg = s.cfg := rfl
@[simp] theorem raise_stream (f : FaultKind) (s : State) : (s.raise f).stream = s.stream := rfl
@[simp] theorem raise_allocAnswers (f : FaultKind) (s : State) : (s.raise f).allocAnswers = s.allocAnswers := rfl
@[simp] theorem raise_allocDraws (f : FaultKind) (s : State) : (s.raise f).allocDraws = s.allocDraws := rfl
@[simp] theorem raise_sendAnswers (f : FaultKind) (s : State) : (s.raise f).sendAnswers = s.sendAnswers := rfl
@[simp] theorem raise_sendDraws (f : FaultKind) (s : State) : (s.raise f).sendDraws = s.sendDraws := rfl
@[simp] theorem raise_cp (f : FaultKind) (s : State) : (s.raise f).cp = s.cp := rfl
@[simp] theorem raise_result (f : FaultKind) (s : State) : (s.raise f).result = s.result := rfl
@[simp] theorem raise_faultCode (f : FaultKind) (s : State) : (s.raise f).faultCode = faultCodeOf f := rfl
@[simp] theorem raise_faultCp (f : FaultKind) (s : State) : (s.raise f).faultCp = s.cp := rfl
@[simp] theorem raise_halted (f : FaultKind) (s : State) : (s.raise f).halted = true := rfl
@[simp] theorem raise_fbAlloc (f : FaultKind) (s : State) : (s.raise f).fbAlloc = s.fbAlloc := rfl
@[simp] theorem raise_fbStatic (f : FaultKind) (s : State) : (s.raise f).fbStatic = s.fbStatic := rfl
@[simp] theorem raise_dynCells (f : FaultKind) (s : State) : (s.raise f).dynCells = s.dynCells := rfl
@[simp] theorem raise_poolCells (f : FaultKind) (s : State) : (s.raise f).poolCells = s.poolCells := rfl
@[simp] theorem raise_bound (f : FaultKind) (s : State) : (s.raise f).bound = s.bound := rfl
@[simp] theorem raise_rot (f : FaultKind) (s : State) : (s.raise f).rot = s.rot := rfl
@[simp] theorem raise_inv (f : FaultKind) (s : State) : (s.raise f).inv = s.inv := rfl
@[simp] theorem raise_ready (f : FaultKind) (s : State) : (s.raise f).ready = s.ready := rfl
@[simp] theorem raise_xferBusy (f : FaultKind) (s : State) : (s.raise f).xferBusy = s.xferBusy := rfl
@[simp] theorem raise_scratch (f : FaultKind) (s : State) : (s.raise f).scratch = s.scratch := rfl
@[simp] theorem raise_log (f : FaultKind) (s : State) : (s.raise f).log = s.log := rfl

/-! `retire` (R31). -/

@[simp] theorem retire_cfg (n : Nat) (s : State) : (s.retire n).cfg = s.cfg := rfl
@[simp] theorem retire_stream (n : Nat) (s : State) : (s.retire n).stream = s.stream := rfl
@[simp] theorem retire_allocAnswers (n : Nat) (s : State) : (s.retire n).allocAnswers = s.allocAnswers := rfl
@[simp] theorem retire_allocDraws (n : Nat) (s : State) : (s.retire n).allocDraws = s.allocDraws := rfl
@[simp] theorem retire_sendAnswers (n : Nat) (s : State) : (s.retire n).sendAnswers = s.sendAnswers := rfl
@[simp] theorem retire_sendDraws (n : Nat) (s : State) : (s.retire n).sendDraws = s.sendDraws := rfl
@[simp] theorem retire_cp (n : Nat) (s : State) : (s.retire n).cp = if s.halted then s.cp else s.cp + BitVec.ofNat 32 n := rfl
@[simp] theorem retire_result (n : Nat) (s : State) : (s.retire n).result = s.result := rfl
@[simp] theorem retire_faultCode (n : Nat) (s : State) : (s.retire n).faultCode = s.faultCode := rfl
@[simp] theorem retire_faultCp (n : Nat) (s : State) : (s.retire n).faultCp = s.faultCp := rfl
@[simp] theorem retire_halted (n : Nat) (s : State) : (s.retire n).halted = s.halted := rfl
@[simp] theorem retire_fbAlloc (n : Nat) (s : State) : (s.retire n).fbAlloc = s.fbAlloc := rfl
@[simp] theorem retire_fbStatic (n : Nat) (s : State) : (s.retire n).fbStatic = s.fbStatic := rfl
@[simp] theorem retire_dynCells (n : Nat) (s : State) : (s.retire n).dynCells = s.dynCells := rfl
@[simp] theorem retire_poolCells (n : Nat) (s : State) : (s.retire n).poolCells = s.poolCells := rfl
@[simp] theorem retire_bound (n : Nat) (s : State) : (s.retire n).bound = s.bound := rfl
@[simp] theorem retire_rot (n : Nat) (s : State) : (s.retire n).rot = s.rot := rfl
@[simp] theorem retire_inv (n : Nat) (s : State) : (s.retire n).inv = s.inv := rfl
@[simp] theorem retire_ready (n : Nat) (s : State) : (s.retire n).ready = s.ready := rfl
@[simp] theorem retire_xferBusy (n : Nat) (s : State) : (s.retire n).xferBusy = s.xferBusy := rfl
@[simp] theorem retire_scratch (n : Nat) (s : State) : (s.retire n).scratch = s.scratch := rfl
@[simp] theorem retire_log (n : Nat) (s : State) : (s.retire n).log = s.log := rfl

/-! `memWrite` (R12). -/

@[simp] theorem memWrite_cfg (a : Nat) (v : Word) (s : State) : (s.memWrite a v).cfg = s.cfg := rfl
@[simp] theorem memWrite_stream (a : Nat) (v : Word) (s : State) : (s.memWrite a v).stream = s.stream := rfl
@[simp] theorem memWrite_allocAnswers (a : Nat) (v : Word) (s : State) : (s.memWrite a v).allocAnswers = s.allocAnswers := rfl
@[simp] theorem memWrite_allocDraws (a : Nat) (v : Word) (s : State) : (s.memWrite a v).allocDraws = s.allocDraws := rfl
@[simp] theorem memWrite_sendAnswers (a : Nat) (v : Word) (s : State) : (s.memWrite a v).sendAnswers = s.sendAnswers := rfl
@[simp] theorem memWrite_sendDraws (a : Nat) (v : Word) (s : State) : (s.memWrite a v).sendDraws = s.sendDraws := rfl
@[simp] theorem memWrite_cp (a : Nat) (v : Word) (s : State) : (s.memWrite a v).cp = s.cp := rfl
@[simp] theorem memWrite_result (a : Nat) (v : Word) (s : State) : (s.memWrite a v).result = s.result := rfl
@[simp] theorem memWrite_faultCode (a : Nat) (v : Word) (s : State) : (s.memWrite a v).faultCode = s.faultCode := rfl
@[simp] theorem memWrite_faultCp (a : Nat) (v : Word) (s : State) : (s.memWrite a v).faultCp = s.faultCp := rfl
@[simp] theorem memWrite_halted (a : Nat) (v : Word) (s : State) : (s.memWrite a v).halted = s.halted := rfl
@[simp] theorem memWrite_fbAlloc (a : Nat) (v : Word) (s : State) : (s.memWrite a v).fbAlloc = s.fbAlloc := rfl
@[simp] theorem memWrite_fbStatic (a : Nat) (v : Word) (s : State) : (s.memWrite a v).fbStatic = s.fbStatic := rfl
@[simp] theorem memWrite_dynCells (a : Nat) (v : Word) (s : State) : (s.memWrite a v).dynCells = if s.fbStatic then s.dynCells else s.dynCells.write a v := rfl
@[simp] theorem memWrite_poolCells (a : Nat) (v : Word) (s : State) : (s.memWrite a v).poolCells = if s.fbStatic then s.poolCells.write a v else s.poolCells := rfl
@[simp] theorem memWrite_bound (a : Nat) (v : Word) (s : State) : (s.memWrite a v).bound = s.bound := rfl
@[simp] theorem memWrite_rot (a : Nat) (v : Word) (s : State) : (s.memWrite a v).rot = s.rot := rfl
@[simp] theorem memWrite_inv (a : Nat) (v : Word) (s : State) : (s.memWrite a v).inv = s.inv := rfl
@[simp] theorem memWrite_ready (a : Nat) (v : Word) (s : State) : (s.memWrite a v).ready = s.ready := rfl
@[simp] theorem memWrite_xferBusy (a : Nat) (v : Word) (s : State) : (s.memWrite a v).xferBusy = s.xferBusy := rfl
@[simp] theorem memWrite_scratch (a : Nat) (v : Word) (s : State) : (s.memWrite a v).scratch = s.scratch := rfl
@[simp] theorem memWrite_log (a : Nat) (v : Word) (s : State) : (s.memWrite a v).log = s.log := rfl

/-! `clearSurface` (R110). -/

@[simp] theorem clearSurface_cfg (s : State) : s.clearSurface.cfg = s.cfg := rfl
@[simp] theorem clearSurface_stream (s : State) : s.clearSurface.stream = s.stream := rfl
@[simp] theorem clearSurface_allocAnswers (s : State) : s.clearSurface.allocAnswers = s.allocAnswers := rfl
@[simp] theorem clearSurface_allocDraws (s : State) : s.clearSurface.allocDraws = s.allocDraws := rfl
@[simp] theorem clearSurface_sendAnswers (s : State) : s.clearSurface.sendAnswers = s.sendAnswers := rfl
@[simp] theorem clearSurface_sendDraws (s : State) : s.clearSurface.sendDraws = s.sendDraws := rfl
@[simp] theorem clearSurface_cp (s : State) : s.clearSurface.cp = s.cp := rfl
@[simp] theorem clearSurface_result (s : State) : s.clearSurface.result = s.result := rfl
@[simp] theorem clearSurface_faultCode (s : State) : s.clearSurface.faultCode = s.faultCode := rfl
@[simp] theorem clearSurface_faultCp (s : State) : s.clearSurface.faultCp = s.faultCp := rfl
@[simp] theorem clearSurface_halted (s : State) : s.clearSurface.halted = s.halted := rfl
@[simp] theorem clearSurface_fbAlloc (s : State) : s.clearSurface.fbAlloc = s.fbAlloc := rfl
@[simp] theorem clearSurface_fbStatic (s : State) : s.clearSurface.fbStatic = s.fbStatic := rfl
@[simp] theorem clearSurface_dynCells (s : State) : s.clearSurface.dynCells = if s.fbStatic then s.dynCells else s.dynCells.clearBelow (surfaceCells s.cfg) := rfl
@[simp] theorem clearSurface_poolCells (s : State) : s.clearSurface.poolCells = if s.fbStatic then s.poolCells.clearBelow (surfaceCells s.cfg) else s.poolCells := rfl
@[simp] theorem clearSurface_bound (s : State) : s.clearSurface.bound = s.bound := rfl
@[simp] theorem clearSurface_rot (s : State) : s.clearSurface.rot = s.rot := rfl
@[simp] theorem clearSurface_inv (s : State) : s.clearSurface.inv = s.inv := rfl
@[simp] theorem clearSurface_ready (s : State) : s.clearSurface.ready = s.ready := rfl
@[simp] theorem clearSurface_xferBusy (s : State) : s.clearSurface.xferBusy = s.xferBusy := rfl
@[simp] theorem clearSurface_scratch (s : State) : s.clearSurface.scratch = s.scratch := rfl
@[simp] theorem clearSurface_log (s : State) : s.clearSurface.log = s.log := rfl

end Sys2Proof.Machine.State
end

