-- ==== Sys2Proof/Laws/Store.lean ====
section
/-! SUPPORT. The laws of a store: what reading after writing and clearing gives, that every operation keeps the canonical form and
the address bound, and that two canonical stores that read alike are equal. -/

namespace Sys2Proof.Machine.Store

@[simp] theorem read_nil (a : Nat) : read [] a = 0#16 := rfl

@[simp] theorem read_cons (b : Nat) (v : Word) (m : Store) (a : Nat) :
    read ((b, v) :: m) a = if a = b then v else read m a := rfl

@[simp] theorem above_nil (a : Nat) : above a [] = true := rfl

@[simp] theorem above_cons (a b : Nat) (v : Word) (m : Store) :
    above a ((b, v) :: m) = true ↔ a < b ∧ above a m = true := by simp [above]

@[simp] theorem within_nil (n : Nat) : within n [] = true := rfl

@[simp] theorem within_cons (n b : Nat) (v : Word) (m : Store) :
    within n ((b, v) :: m) = true ↔ b < n ∧ within n m = true := by simp [within]

@[simp] theorem wf_nil : wf [] = true := rfl

@[simp] theorem wf_cons (b : Nat) (v : Word) (m : Store) :
    wf ((b, v) :: m) = true ↔ v ≠ 0#16 ∧ above b m = true ∧ wf m = true := by
  simp [wf, and_assoc]

/-- A bound on the listed addresses may be lowered. -/
theorem above_of_lt {a b : Nat} {m : Store} (h : above b m = true) (hab : a < b) : above a m = true := by
  simp only [above, List.all_eq_true, decide_eq_true_eq] at h ⊢
  exact fun cell hc => Nat.lt_trans hab (h cell hc)

/-- An address below every listed one reads as the clear value. -/
theorem read_of_above {a b : Nat} {m : Store} (h : above b m = true) (hab : a ≤ b) : read m a = 0#16 := by
  induction m with
  | nil => rfl
  | cons cell m ih =>
    obtain ⟨k, v⟩ := cell
    rw [above_cons] at h
    rw [read_cons, if_neg (by omega), ih h.2]

/-- Reading after a write: the written cell holds the value, every other cell is as before. -/
@[simp] theorem read_write {m : Store} (hm : m.wf = true) (a b : Nat) (v : Word) :
    (m.write a v).read b = if b = a then v else m.read b := by
  induction m with
  | nil => by_cases hv : v = 0#16 <;> simp [write, hv]
  | cons cell m ih =>
    obtain ⟨k, u⟩ := cell
    rw [wf_cons] at hm
    have habove : k = a → read m a = 0#16 := fun hk => read_of_above hm.2.1 (by omega)
    rcases Nat.lt_trichotomy a k with h | h | h
    · have h0 : read m a = 0#16 := read_of_above hm.2.1 (by omega)
      by_cases hv : v = 0#16 <;> simp [write, h, hv]
      by_cases hb : b = a
      · subst hb; simp [h0]; omega
      · simp [hb]
    · subst h
      by_cases hv : v = 0#16 <;> by_cases hb : b = a <;> simp_all [write]
    · have h1 : ¬ a < k := by omega
      have h2 : ¬ a = k := by omega
      simp only [write, h1, h2, if_false, read_cons, ih hm.2.2]
      by_cases hb : b = a
      · subst hb; simp [h2]
      · simp [hb]

theorem above_write {b a : Nat} {m : Store} {v : Word} (h : above b m = true) (hab : b < a) :
    above b (m.write a v) = true := by
  induction m with
  | nil => by_cases hv : v = 0#16 <;> simp [write, hv, hab]
  | cons cell m ih =>
    obtain ⟨k, u⟩ := cell
    rw [above_cons] at h
    simp only [write]
    repeat' split
    all_goals simp_all

/-- A write keeps the canonical form. -/
theorem wf_write {m : Store} (hm : m.wf = true) (a : Nat) (v : Word) : (m.write a v).wf = true := by
  induction m with
  | nil => by_cases hv : v = 0#16 <;> simp [write, hv]
  | cons cell m ih =>
    obtain ⟨k, u⟩ := cell
    rw [wf_cons] at hm
    simp only [write]
    split
    · rename_i h
      split
      · simp_all
      · simp_all [above_of_lt hm.2.1 h]
    · rename_i h1
      split
      · rename_i h2
        split <;> simp_all
      · rename_i h2
        have hk : k < a := by omega
        rw [wf_cons]
        exact ⟨hm.1, above_write hm.2.1 hk, ih hm.2.2⟩

/-- A write to an address below the bound keeps the bound. -/
theorem within_write {n a : Nat} {m : Store} (hm : m.within n = true) (ha : a < n) (v : Word) :
    (m.write a v).within n = true := by
  induction m with
  | nil => by_cases hv : v = 0#16 <;> simp [write, hv, ha]
  | cons cell m ih =>
    obtain ⟨k, u⟩ := cell
    rw [within_cons] at hm
    simp only [write]
    repeat' split
    all_goals simp_all

theorem above_clearBelow {b n : Nat} {m : Store} (h : above b m = true) : above b (m.clearBelow n) = true := by
  simp only [above, clearBelow, List.all_eq_true, decide_eq_true_eq] at h ⊢
  exact fun cell hc => h cell ((List.mem_filter.mp hc).1)

/-- Clearing keeps the canonical form. -/
theorem wf_clearBelow {m : Store} (hm : m.wf = true) (n : Nat) : (m.clearBelow n).wf = true := by
  induction m with
  | nil => rfl
  | cons cell m ih =>
    obtain ⟨k, u⟩ := cell
    rw [wf_cons] at hm
    by_cases hk : n ≤ k
    · have he : clearBelow n ((k, u) :: m) = (k, u) :: clearBelow n m := by simp [clearBelow, hk]
      rw [he, wf_cons]
      exact ⟨hm.1, above_clearBelow hm.2.1, ih hm.2.2⟩
    · have he : clearBelow n ((k, u) :: m) = clearBelow n m := by simp [clearBelow, hk]
      rw [he]
      exact ih hm.2.2

theorem within_clearBelow {m : Store} {k : Nat} (hm : m.within k = true) (n : Nat) :
    (m.clearBelow n).within k = true := by
  simp only [within, clearBelow, List.all_eq_true, decide_eq_true_eq] at hm ⊢
  exact fun cell hc => hm cell ((List.mem_filter.mp hc).1)

/-- Reading after clearing: cells below the bound are `0x0000`, the others as before. -/
@[simp] theorem read_clearBelow (m : Store) (n a : Nat) : (m.clearBelow n).read a = if a < n then 0#16 else m.read a := by
  induction m with
  | nil => simp [clearBelow]
  | cons cell m ih =>
    obtain ⟨k, u⟩ := cell
    by_cases hk : n ≤ k
    · have he : clearBelow n ((k, u) :: m) = (k, u) :: clearBelow n m := by simp [clearBelow, hk]
      rw [he, read_cons, ih, read_cons]
      by_cases ha : a = k
      · subst ha; rw [if_pos rfl, if_neg (by omega), if_pos rfl]
      · rw [if_neg ha, if_neg ha]
    · have he : clearBelow n ((k, u) :: m) = clearBelow n m := by simp [clearBelow, hk]
      rw [he, ih, read_cons]
      by_cases ha : a = k
      · subst ha; simp [show a < n by omega]
      · simp [ha]

/-- Clearing the whole of a bounded store leaves nothing listed. -/
theorem clearBelow_of_within {m : Store} {n : Nat} (h : m.within n = true) : m.clearBelow n = [] := by
  simp only [within, List.all_eq_true, decide_eq_true_eq] at h
  simp only [clearBelow, List.filter_eq_nil_iff, decide_eq_true_eq]
  exact fun cell hc => Nat.not_le_of_lt (h cell hc)

/-- Two canonical stores that read alike at every address are the same list. -/
theorem ext_of_read {m n : Store} (hm : m.wf = true) (hn : n.wf = true) (h : ∀ a, m.read a = n.read a) : m = n := by
  induction m generalizing n with
  | nil =>
    cases n with
    | nil => rfl
    | cons c n =>
      obtain ⟨k, v⟩ := c
      rw [wf_cons] at hn
      have := h k
      simp at this
      exact absurd this.symm hn.1
  | cons c m ih =>
    obtain ⟨j, u⟩ := c
    rw [wf_cons] at hm
    cases n with
    | nil =>
      have := h j
      simp at this
      exact absurd this hm.1
    | cons c n =>
      obtain ⟨k, v⟩ := c
      rw [wf_cons] at hn
      have hj := h j
      have hk := h k
      rw [read_cons, read_cons, if_pos rfl] at hj
      rw [read_cons, read_cons, if_pos rfl] at hk
      have hjk : j = k := by
        rcases Nat.lt_trichotomy j k with hlt | heq | hgt
        · rw [if_neg (by omega), read_of_above hn.2.1 (by omega)] at hj
          exact absurd hj hm.1
        · exact heq
        · rw [if_neg (by omega), read_of_above hm.2.1 (by omega)] at hk
          exact absurd hk.symm hn.1
      subst hjk
      rw [if_pos rfl] at hj
      subst hj
      rw [ih hm.2.2 hn.2.2]
      intro a
      by_cases ha : a = j
      · subst ha
        rw [read_of_above hm.2.1 (Nat.le_refl _), read_of_above hn.2.1 (Nat.le_refl _)]
      · have := h a
        rwa [read_cons, read_cons, if_neg ha, if_neg ha] at this

end Sys2Proof.Machine.Store
end

