-- ==== Sys2Proof/Laws/Paint.lean ====
section
/-! SUPPORT. What the operations that write surface cells can do: each keeps every other field (`SameButCells`) and the canonical
form, and what every cell reads afterwards. The meanings of 40_surface.md, 41_raster.md and 42_glyph.md rest on these. -/

namespace Sys2Proof.Machine

/-! Frames compose. -/

theorem SameButCells.refl (s : State) : SameButCells s s := ⟨rfl, fun _ => rfl, fun _ => rfl⟩

theorem SameButCells.fbStatic {s t : State} (h : SameButCells s t) : t.fbStatic = s.fbStatic := by rw [h.1]
theorem SameButCells.fbAlloc {s t : State} (h : SameButCells s t) : t.fbAlloc = s.fbAlloc := by rw [h.1]
theorem SameButCells.cfg {s t : State} (h : SameButCells s t) : t.cfg = s.cfg := by rw [h.1]

theorem SameButCells.trans {s t u : State} (h : SameButCells s t) (k : SameButCells t u) : SameButCells s u := by
  have hs := h.fbStatic
  obtain ⟨h1, h2, h3⟩ := h
  obtain ⟨k1, k2, k3⟩ := k
  refine ⟨?_, fun hst => ?_, fun hst => ?_⟩
  · rw [k1, h1]
  · rw [k2 (hs.trans hst), h2 hst]
  · rw [k3 (hs.trans hst), h3 hst]

theorem SameButCells.foldl {α : Type} {f : State → α → State} (hf : ∀ s a, SameButCells s (f s a)) (l : List α) (s : State) :
    SameButCells s (l.foldl f s) := by
  induction l generalizing s with
  | nil => exact SameButCells.refl s
  | cons a l ih => exact (hf s a).trans (ih (f s a))

/-! The surface's cells under each operation. -/

@[simp] theorem fb_memWrite (a : Nat) (v : Word) (s : State) : (s.memWrite a v).fb = s.fb.write a v := by
  cases h : s.fbStatic <;> simp [State.fb, h]

@[simp] theorem fb_clearSurface (s : State) : s.clearSurface.fb = s.fb.clearBelow (surfaceCells s.cfg) := by
  cases h : s.fbStatic <;> simp [State.fb, h]

theorem memWrite_sameButCells (a : Nat) (v : Word) (s : State) : SameButCells s (s.memWrite a v) :=
  ⟨rfl, fun h => by simp [h], fun h => by simp [h]⟩

theorem clearSurface_sameButCells (s : State) : SameButCells s s.clearSurface :=
  ⟨rfl, fun h => by simp [h], fun h => by simp [h]⟩

theorem memRead_memWrite {s : State} (hs : s.fb.wf = true) (a b : Nat) (v : Word) :
    (s.memWrite a v).memRead b = if b = a then v else s.memRead b := by
  simp [State.memRead, Store.read_write hs]

theorem memRead_clearSurface (s : State) (a : Nat) :
    s.clearSurface.memRead a = if a < surfaceCells s.cfg then 0#16 else s.memRead a := by
  simp [State.memRead]

/-! `memFill`. -/

theorem memFill_sameButCells (addrs : List Nat) (v : Word) (s : State) : SameButCells s (s.memFill addrs v) :=
  SameButCells.foldl (fun t a => memWrite_sameButCells a v t) addrs s

theorem memFill_wf (addrs : List Nat) (v : Word) {s : State} (hs : s.fb.wf = true) : (s.memFill addrs v).fb.wf = true := by
  induction addrs generalizing s with
  | nil => exact hs
  | cons a l ih => exact ih (s := s.memWrite a v) (by simpa using Store.wf_write hs a v)

/-- Filling the listed cells: each listed cell holds the value, every other cell is as before. -/
theorem memFill_painted (addrs : List Nat) (v : Word) {s : State} (hs : s.fb.wf = true) :
    Painted s (s.memFill addrs v) addrs v := by
  induction addrs generalizing s with
  | nil => intro a; simp [State.memFill]
  | cons b l ih =>
    intro a
    have hw : (s.memWrite b v).fb.wf = true := by simpa using Store.wf_write hs b v
    have h := ih hw a
    rw [memRead_memWrite hs] at h
    rw [show s.memFill (b :: l) v = (s.memWrite b v).memFill l v from rfl, h]
    by_cases h1 : a ∈ l <;> by_cases h2 : a = b <;> simp [h1, h2]

/-! `plot` and `paint`. -/

theorem cellOf_eq_some {cfg : Config} {px py : Int} {a : Nat} :
    cellOf cfg px py = some a ↔
      0 ≤ px ∧ px < cfg.W.val ∧ 0 ≤ py ∧ py < cfg.H.val ∧ a = cellAddr cfg px.toNat py.toNat := by
  unfold cellOf
  split
  · rename_i h; simp [h, eq_comm]
  · rename_i h
    constructor
    · intro h'; cases h'
    · rintro ⟨h1, h2, h3, h4, -⟩; exact absurd ⟨h1, h2, h3, h4⟩ h

/-- A pixel inside the surface has a cell inside the surface (R60). -/
theorem cellAddr_lt {cfg : Config} {x y : Nat} (hx : x < cfg.W.val) (hy : y < cfg.H.val) :
    cellAddr cfg x y < surfaceCells cfg := by
  unfold cellAddr surfaceCells
  have h : (y + 1) * cfg.W.val ≤ cfg.H.val * cfg.W.val := Nat.mul_le_mul_right _ hy
  rw [Nat.mul_comm cfg.H.val, Nat.succ_mul] at h
  omega

/-- Distinct pixels inside the surface have distinct cells (R35). -/
theorem cellAddr_inj {cfg : Config} {x y x' y' : Nat} (hx : x < cfg.W.val) (hx' : x' < cfg.W.val)
    (h : cellAddr cfg x y = cellAddr cfg x' y') : x = x' ∧ y = y' := by
  unfold cellAddr at h
  have hm := congrArg (· % cfg.W.val) h
  have hd := congrArg (· / cfg.W.val) h
  have hp : 0 < cfg.W.val := cfg.W.pos
  simp only [Nat.mul_comm _ cfg.W.val, Nat.mul_add_mod, Nat.mod_eq_of_lt hx, Nat.mod_eq_of_lt hx'] at hm
  simp only [Nat.mul_comm _ cfg.W.val, Nat.mul_add_div hp, Nat.div_eq_of_lt hx, Nat.div_eq_of_lt hx'] at hd
  omega

theorem plot_sameButCells (px py : Int) (c : Word) (s : State) : SameButCells s (s.plot px py c) := by
  unfold State.plot
  split
  · split
    · exact memWrite_sameButCells _ _ _
    · exact SameButCells.refl s
  · exact SameButCells.refl s

theorem plot_wf (px py : Int) (c : Word) {s : State} (hs : s.fb.wf = true) : (s.plot px py c).fb.wf = true := by
  unfold State.plot
  split
  · split
    · simpa using Store.wf_write hs _ _
    · exact hs
  · exact hs

/-- What one clipped plot leaves in every cell (R113). -/
theorem memRead_plot {s : State} (hs : s.fb.wf = true) (px py : Int) (c : Word) (a : Nat) :
    (s.plot px py c).memRead a = if s.fbAlloc = true ∧ cellOf s.cfg px py = some a then c else s.memRead a := by
  unfold State.plot
  cases ha : s.fbAlloc
  · simp
  · cases hc : cellOf s.cfg px py with
    | none => simp
    | some b =>
      simp only [if_true, memRead_memWrite hs, Option.some.injEq, true_and]
      by_cases hb : a = b
      · simp [hb]
      · simp [hb, Ne.symm hb]

/-- The dot is plotted on cell `a` of `s`'s surface. -/
def Dot.hits (d : Dot) (s : State) (a : Nat) : Prop := s.fbAlloc = true ∧ cellOf s.cfg d.x d.y = some a

theorem paint_sameButCells (dots : List Dot) (s : State) : SameButCells s (s.paint dots) :=
  SameButCells.foldl (f := fun t (d : Dot) => t.plot d.x d.y d.c) (fun t d => plot_sameButCells d.x d.y d.c t) dots s

theorem paint_wf (dots : List Dot) {s : State} (hs : s.fb.wf = true) : (s.paint dots).fb.wf = true := by
  induction dots generalizing s with
  | nil => exact hs
  | cons d l ih => exact ih (s := s.plot d.x d.y d.c) (plot_wf _ _ _ hs)

theorem paint_cons (d : Dot) (l : List Dot) (s : State) : s.paint (d :: l) = (s.plot d.x d.y d.c).paint l := rfl

theorem paint_append (k l : List Dot) (s : State) : s.paint (k ++ l) = (s.paint k).paint l := by
  simp [State.paint, List.foldl_append]

theorem Dot.hits_plot (d e : Dot) (s : State) (a : Nat) : d.hits (s.plot e.x e.y e.c) a ↔ d.hits s a := by
  have h := plot_sameButCells e.x e.y e.c s
  unfold Dot.hits
  rw [h.fbAlloc, h.cfg]

/-- A cell no dot is plotted on is as before. -/
theorem memRead_paint_of_miss {dots : List Dot} {s : State} (hs : s.fb.wf = true) {a : Nat}
    (h : ∀ d ∈ dots, ¬ d.hits s a) : (s.paint dots).memRead a = s.memRead a := by
  induction dots generalizing s with
  | nil => rfl
  | cons d l ih =>
    rw [paint_cons, ih (plot_wf _ _ _ hs) (fun e he => by rw [Dot.hits_plot]; exact h e (by simp [he])),
      memRead_plot hs]
    exact if_neg (h d (by simp))

/-- A cell that some dot is plotted on, and only in colour `c`, holds `c`. -/
theorem memRead_paint_of_hit {dots : List Dot} {s : State} (hs : s.fb.wf = true) {a : Nat} {c : Word}
    (hex : ∃ d ∈ dots, d.hits s a) (hc : ∀ d ∈ dots, d.hits s a → d.c = c) : (s.paint dots).memRead a = c := by
  induction dots generalizing s with
  | nil => simp at hex
  | cons d l ih =>
    rw [paint_cons]
    by_cases hl : ∃ e ∈ l, e.hits s a
    · refine ih (plot_wf _ _ _ hs) ?_ ?_
      · obtain ⟨e, he, hh⟩ := hl
        exact ⟨e, he, (Dot.hits_plot e d s a).mpr hh⟩
      · intro e he hh
        exact hc e (by simp [he]) ((Dot.hits_plot e d s a).mp hh)
    · rw [memRead_paint_of_miss (plot_wf _ _ _ hs)
        (fun e he => by rw [Dot.hits_plot]; exact fun hh => hl ⟨e, he, hh⟩), memRead_plot hs]
      obtain ⟨e, he, hh⟩ := hex
      rcases List.mem_cons.mp he with h | h
      · subst h; exact (if_pos hh).trans (hc e (by simp) hh)
      · exact absurd ⟨e, h, hh⟩ hl

theorem plotAll_sameButCells (pixels : List (Int × Int)) (c : Word) (s : State) : SameButCells s (s.plotAll pixels c) :=
  paint_sameButCells _ _

theorem plotAll_wf (pixels : List (Int × Int)) (c : Word) {s : State} (hs : s.fb.wf = true) :
    (s.plotAll pixels c).fb.wf = true := paint_wf _ hs

theorem mem_plotCells {s : State} {pixels : List (Int × Int)} {a : Nat} :
    a ∈ s.plotCells pixels ↔ s.fbAlloc = true ∧ ∃ p ∈ pixels, cellOf s.cfg p.1 p.2 = some a := by
  unfold State.plotCells
  split <;> simp_all

/-- Plotting a shape: its cells inside the surface hold the colour, every other cell is as before (R113, R130). -/
theorem plotAll_painted (pixels : List (Int × Int)) (c : Word) {s : State} (hs : s.fb.wf = true) :
    Painted s (s.plotAll pixels c) (s.plotCells pixels) c := by
  intro a
  split
  · rename_i h
    obtain ⟨ha, p, hp, hc⟩ := mem_plotCells.mp h
    refine memRead_paint_of_hit hs ⟨⟨p.1, p.2, c⟩, List.mem_map.mpr ⟨p, hp, rfl⟩, ha, hc⟩ ?_
    intro d hd _
    obtain ⟨q, -, rfl⟩ := List.mem_map.mp hd
    rfl
  · rename_i h
    refine memRead_paint_of_miss hs ?_
    rintro d hd ⟨ha, hh⟩
    obtain ⟨q, hq, rfl⟩ := List.mem_map.mp hd
    exact h (mem_plotCells.mpr ⟨ha, q, hq, hh⟩)

/-- With no store allocated a paint does nothing (R117). -/
theorem paint_unallocated (dots : List Dot) {s : State} (h : s.fbAlloc = false) : s.paint dots = s := by
  induction dots with
  | nil => rfl
  | cons d l ih => rw [paint_cons, show s.plot d.x d.y d.c = s by simp [State.plot, h], ih]

/-- The cells a paint writes lie inside the surface (R68). -/
theorem paint_within (dots : List Dot) {s : State} (hs : s.fb.within (surfaceCells s.cfg) = true) :
    (s.paint dots).fb.within (surfaceCells s.cfg) = true := by
  induction dots generalizing s with
  | nil => exact hs
  | cons d l ih =>
    have hcfg : (s.plot d.x d.y d.c).cfg = s.cfg := (plot_sameButCells d.x d.y d.c s).cfg
    rw [paint_cons, ← hcfg]
    refine ih ?_
    rw [hcfg]
    unfold State.plot
    split
    · split
      · rename_i a ha
        obtain ⟨h1, h2, h3, h4, rfl⟩ := cellOf_eq_some.mp ha
        rw [fb_memWrite]
        exact Store.within_write hs (cellAddr_lt (by omega) (by omega)) _
      · exact hs
    · exact hs

end Sys2Proof.Machine
end

