-- ==== Sys2Proof/Laws/Glyph.lean ====
section
/-! SUPPORT. What the glyph and text operations can do (R164, R171, R174). -/

namespace Sys2Proof.Machine

theorem blit_sameButCells (x y : Nat) (cpt fg bg : Word) (scale : Nat) (s : State) :
    SameButCells s (s.blit x y cpt fg bg scale) := paint_sameButCells _ s

theorem blit_wf (x y : Nat) (cpt fg bg : Word) (scale : Nat) {s : State} (hs : s.fb.wf = true) :
    (s.blit x y cpt fg bg scale).fb.wf = true := paint_wf _ hs

theorem blit_within (x y : Nat) (cpt fg bg : Word) (scale : Nat) {s : State}
    (hs : s.fb.within (surfaceCells s.cfg) = true) :
    (s.blit x y cpt fg bg scale).fb.within (surfaceCells s.cfg) = true := paint_within _ hs

/-- Where a glyph's dots lie: inside its `8s x 16s` footprint, each in the foreground or the background colour (R164). -/
theorem mem_glyphDots {g : Glyph} {x y : Nat} {fg bg : Word} {s : Nat} {d : Dot} :
    d ∈ glyphDots g x y fg bg s ↔
      ∃ row col j i, row < 16 ∧ col < 8 ∧ j < s ∧ i < s
        ∧ d.x = ((x + col * s + i : Nat) : Int) ∧ d.y = ((y + row * s + j : Nat) : Int)
        ∧ ((glyphBit g row col = true ∧ d.c = fg) ∨ (glyphBit g row col = false ∧ bg ≠ 0#16 ∧ d.c = bg)) := by
  unfold glyphDots
  simp only [List.mem_flatMap, List.mem_range]
  constructor
  · rintro ⟨row, hr, col, hc, h⟩
    cases hb : glyphBit g row col
    · rw [hb] at h
      simp only [Bool.false_eq_true, if_false] at h
      split at h
      · rename_i hbg
        simp only [glyphBlock, List.mem_flatMap, List.mem_range, List.mem_map] at h
        obtain ⟨j, hj, i, hi, rfl⟩ := h
        exact ⟨row, col, j, i, hr, hc, hj, hi, rfl, rfl, .inr ⟨hb, hbg, rfl⟩⟩
      · simp at h
    · rw [hb] at h
      simp only [if_true, glyphBlock, List.mem_flatMap, List.mem_range, List.mem_map] at h
      obtain ⟨j, hj, i, hi, rfl⟩ := h
      exact ⟨row, col, j, i, hr, hc, hj, hi, rfl, rfl, .inl ⟨hb, rfl⟩⟩
  · rintro ⟨row, col, j, i, hr, hc, hj, hi, hx, hy, h⟩
    refine ⟨row, hr, col, hc, ?_⟩
    have hd : d = ⟨((x + col * s + i : Nat) : Int), ((y + row * s + j : Nat) : Int), d.c⟩ := by
      cases d; simp_all
    rcases h with ⟨hb, hcol⟩ | ⟨hb, hbg, hcol⟩
    · rw [hb, if_pos rfl]
      simp only [glyphBlock, List.mem_flatMap, List.mem_range, List.mem_map]
      exact ⟨j, hj, i, hi, by rw [hd, hcol]⟩
    · rw [hb, if_neg (by simp), if_pos hbg]
      simp only [glyphBlock, List.mem_flatMap, List.mem_range, List.mem_map]
      exact ⟨j, hj, i, hi, by rw [hd, hcol]⟩

/-- `Text` from any cursor either ends having changed cells only, or raises MalformedUtf8 after changing cells only (R174). -/
theorem textFrom_spec (y : Nat) (fg bg : Word) (scale : Nat) (items : List (Option Word)) (cx : Nat) (s : State) :
    SameButCells s (s.textFrom y fg bg scale items cx)
      ∨ (none ∈ items ∧ ∃ u, SameButCells s u ∧ s.textFrom y fg bg scale items cx = u.raise .malformedUtf8) := by
  induction items generalizing cx s with
  | nil => exact .inl (SameButCells.refl s)
  | cons item rest ih =>
    cases item with
    | none => exact .inr ⟨by simp, s, SameButCells.refl s, rfl⟩
    | some cpt =>
      unfold State.textFrom
      split
      · exact .inl (SameButCells.refl s)
      · have hb := blit_sameButCells cx y cpt fg bg scale s
        rcases ih (cx + 8 * scale) (s.blit cx y cpt fg bg scale) with h | ⟨hn, u, hu, he⟩
        · exact .inl (hb.trans h)
        · exact .inr ⟨by simp [hn], u, hb.trans hu, he⟩

/-- A string taken byte by byte has no malformed sequence (R174). -/
theorem none_not_mem_codePoints (bytes : List Byte) : none ∉ codePoints false bytes := by
  have h : ∀ fuel bs, none ∉ codePointsWithin false fuel bs := by
    intro fuel
    induction fuel with
    | zero => intro bs; simp [codePointsWithin]
    | succ f ih =>
      intro bs
      cases bs with
      | nil => simp [codePointsWithin]
      | cons b rest =>
        unfold codePointsWithin
        by_cases hb : b = 0#8
        · simp [hb]
        · simpa [nextCodePoint, hb] using ih rest
  exact h _ _

/-- With no store allocated `Text` writes no cell: it ends in the same state, or in that state's fault entry (R117). -/
theorem textFrom_unallocated (y : Nat) (fg bg : Word) (scale : Nat) (items : List (Option Word)) (cx : Nat) {s : State}
    (h : s.fbAlloc = false) :
    s.textFrom y fg bg scale items cx = s ∨ s.textFrom y fg bg scale items cx = s.raise .malformedUtf8 := by
  induction items generalizing cx with
  | nil => exact .inl rfl
  | cons item rest ih =>
    cases item with
    | none => exact .inr rfl
    | some cpt =>
      unfold State.textFrom
      rw [show s.blit cx y cpt fg bg scale = s from paint_unallocated _ h]
      split
      · exact .inl rfl
      · exact ih _

/-! Strings as code points. -/

/-- A code point takes at least one byte (R161). -/
theorem nextCodePoint_pos {utf8 : Bool} {bytes : List Byte} {cpt : Word} {k : Nat}
    (h : nextCodePoint utf8 bytes = some (cpt, k)) : 1 ≤ k := by
  unfold nextCodePoint at h
  split at h
  · unfold utf8Decode at h
    split at h
    · simp at h
    · split at h
      · simp at h; omega
      · split at h
        · split at h
          · split at h <;> simp at h
            omega
          · simp at h
        · simp at h
  · split at h <;> simp at h
    omega

/-- More fuel than bytes changes nothing: the loop of `codePointsWithin` ends at the string's end. -/
theorem codePointsWithin_fuel (utf8 : Bool) {fuel : Nat} {bytes : List Byte} (h : bytes.length ≤ fuel) :
    codePointsWithin utf8 fuel bytes = codePoints utf8 bytes := by
  have key : ∀ n f g (b : List Byte), b.length ≤ n → n ≤ f → n ≤ g →
      codePointsWithin utf8 f b = codePointsWithin utf8 g b := by
    intro n
    induction n with
    | zero =>
      intro f g b hb _ _
      have hnil : b = [] := List.length_eq_zero_iff.mp (by omega)
      subst hnil
      cases f <;> cases g <;> rfl
    | succ n ih =>
      intro f g b hb hf hg
      cases f with
      | zero => omega
      | succ f =>
      cases g with
      | zero => omega
      | succ g =>
      cases b with
      | nil => rfl
      | cons b r =>
        simp only [codePointsWithin]
        split
        · rfl
        · split
          · rfl
          · rename_i cpt k hn
            have hk := nextCodePoint_pos hn
            rw [ih f g (List.drop k (b :: r)) (by simp only [List.length_drop, List.length_cons] at hb ⊢; omega)
              (by omega) (by omega)]
  exact key bytes.length _ _ _ (by omega) h (by omega)

/-- The first code point of a string that does not start with NUL, and the rest (R170, R171). -/
theorem codePoints_cons {utf8 : Bool} {b : Byte} {rest : List Byte} {cpt : Word} {k : Nat} (hb : b ≠ 0#8)
    (h : nextCodePoint utf8 (b :: rest) = some (cpt, k)) :
    codePoints utf8 (b :: rest) = some cpt :: codePoints utf8 ((b :: rest).drop k) := by
  have hk := nextCodePoint_pos h
  have hl : ((b :: rest).drop k).length ≤ rest.length := by simp only [List.length_drop, List.length_cons]; omega
  rw [← codePointsWithin_fuel utf8 hl, codePoints, List.length_cons, codePointsWithin]
  simp only [hb, if_false, h]

/-- Whole glyphs side by side, one at a time. -/
theorem drawGlyphs_cons (x y : Nat) (fg bg : Word) (scale : Nat) (cpt : Word) (cpts : List Word) (s : State) :
    s.drawGlyphs x y fg bg scale (cpt :: cpts)
      = (s.blit x y cpt fg bg scale).drawGlyphs (x + 8 * scale) y fg bg scale cpts := by
  have key : ∀ (l : List Word) n (t : State),
      List.foldl (fun (t : State) (p : Word × Nat) => t.blit (x + 8 * scale * p.2) y p.1 fg bg scale) t (l.zipIdx (n + 1))
        = List.foldl (fun (t : State) (p : Word × Nat) => t.blit (x + 8 * scale + 8 * scale * p.2) y p.1 fg bg scale) t
            (l.zipIdx n) := by
    intro l
    induction l with
    | nil => intro n t; rfl
    | cons a l ih =>
      intro n t
      simp only [List.zipIdx_cons, List.foldl_cons]
      rw [ih, Nat.mul_succ, show x + (8 * scale * n + 8 * scale) = x + 8 * scale + 8 * scale * n by omega]
  unfold State.drawGlyphs
  rw [List.zipIdx_cons]
  simp only [List.foldl_cons, Nat.mul_zero, Nat.add_zero]
  exact key cpts 0 _

theorem drawGlyphs_sameButCells (x y : Nat) (fg bg : Word) (scale : Nat) (cpts : List Word) (s : State) :
    SameButCells s (s.drawGlyphs x y fg bg scale cpts) :=
  SameButCells.foldl (f := fun t (p : Word × Nat) => t.blit (x + 8 * scale * p.2) y p.1 fg bg scale)
    (fun t _ => blit_sameButCells _ _ _ _ _ _ t) _ s

end Sys2Proof.Machine
end

