-- ==== Sys2Proof/Laws/Link.lean ====
section
/-! SUPPORT. What the operations on the SPI side can do: each changes only what sends write (`SameButLink`) and logs exactly its
transactions, each with its own answer (`Sent`). The meanings of 43_serializer.md and 44_controller.md rest on these. -/

namespace Sys2Proof.Machine

theorem SameButLink.refl (s : State) : SameButLink s s := rfl

theorem SameButLink.trans {s t u : State} (h : SameButLink s t) (k : SameButLink t u) : SameButLink s u := by
  unfold SameButLink at *
  rw [k, h]

theorem SameButLink.foldl {α : Type} {f : State → α → State} (hf : ∀ s a, SameButLink s (f s a)) (l : List α) (s : State) :
    SameButLink s (l.foldl f s) := by
  induction l generalizing s with
  | nil => exact SameButLink.refl s
  | cons a l ih => exact (hf s a).trans (ih (f s a))

theorem SameButLink.cfg {s t : State} (h : SameButLink s t) : t.cfg = s.cfg := by rw [h]
theorem SameButLink.fb {s t : State} (h : SameButLink s t) : t.fb = s.fb := by rw [h]; rfl
theorem SameButLink.memRead {s t : State} (h : SameButLink s t) (a : Nat) : t.memRead a = s.memRead a := by
  simp only [State.memRead, h.fb]
theorem SameButLink.cellRun {s t : State} (h : SameButLink s t) (k m : Nat) : t.cellRun k m = s.cellRun k m := by
  simp only [State.cellRun, h.memRead]

theorem send_sameButLink (k : TxnKind) (b : List Byte) (s : State) : SameButLink s (s.send k b) := rfl
theorem sendPixels_sameButLink (b : List Byte) (s : State) : SameButLink s (s.sendPixels b) := rfl

/-- A queued answer is the answer given (R194). -/
theorem sendAnswer_queued {s : State} {k : Nat} {b : Bool} (h : s.sendAnswers[k]? = some b) : s.sendAnswer k = b := by
  obtain ⟨hk, rfl⟩ := List.getElem?_eq_some_iff.mp h
  unfold State.sendAnswer
  rw [List.drop_eq_getElem_cons hk]

/-! Sequences of transactions. -/

/-- From `s` to `t` exactly the listed transactions were sent, in order. -/
structure Sent (s t : State) (sends : List (TxnKind × List Byte)) : Prop where
  log : t.log = s.log ++ s.txns 0 sends
  answers : t.sendAnswers = s.sendAnswers.drop sends.length
  draws : t.sendDraws = s.sendDraws + sends.length

theorem Sent.sendAnswer {s t : State} {l : List (TxnKind × List Byte)} (h : Sent s t l) (k : Nat) :
    t.sendAnswer k = s.sendAnswer (l.length + k) := by
  simp only [State.sendAnswer, h.answers, h.draws, List.drop_drop, Nat.add_assoc]

theorem txns_append (s : State) (n : Nat) (l k : List (TxnKind × List Byte)) :
    s.txns n (l ++ k) = s.txns n l ++ s.txns (n + l.length) k := by
  induction l generalizing n with
  | nil => simp [State.txns]
  | cons p l ih => simp [State.txns, ih, Nat.add_assoc, Nat.add_comm 1]

theorem txns_shift {s t : State} {d : Nat} (h : ∀ k, t.sendAnswer k = s.sendAnswer (d + k)) (n : Nat)
    (l : List (TxnKind × List Byte)) : t.txns n l = s.txns (d + n) l := by
  induction l generalizing n with
  | nil => rfl
  | cons p l ih => simp [State.txns, ih, h, Nat.add_assoc]

theorem Sent.nil {s t : State} (h : t.log = s.log) (ha : t.sendAnswers = s.sendAnswers) (hd : t.sendDraws = s.sendDraws) :
    Sent s t [] := ⟨by simp [State.txns, h], by simp [ha], by simp [hd]⟩

theorem Sent.trans {s t u : State} {l k : List (TxnKind × List Byte)} (h : Sent s t l) (h' : Sent t u k) :
    Sent s u (l ++ k) := by
  refine ⟨?_, ?_, ?_⟩
  · rw [h'.log, h.log, txns_append, txns_shift h.sendAnswer, List.append_assoc, Nat.zero_add, Nat.add_zero]
  · rw [h'.answers, h.answers, List.drop_drop, List.length_append]
  · rw [h'.draws, h.draws, List.length_append, Nat.add_assoc]

theorem send_sent (k : TxnKind) (b : List Byte) (s : State) : Sent s (s.send k b) [(k, b)] :=
  ⟨by simp [State.txns], by simp, by simp⟩

theorem sendPixels_sent (b : List Byte) (s : State) : Sent s (s.sendPixels b) [(.data, b)] :=
  ⟨by simp [State.txns], by simp, by simp⟩

theorem Sent.congr_state {s t u : State} {l : List (TxnKind × List Byte)} (h : Sent s t l) (e : u = t) : Sent s u l := e ▸ h

theorem Sent.foldl {α : Type} {f : State → α → State} {g : α → TxnKind × List Byte} {s₀ : State}
    (hl : ∀ s a, SameButLink s (f s a)) (hf : ∀ s a, SameButLink s₀ s → Sent s (f s a) [g a]) (l : List α) {s : State}
    (hs : SameButLink s₀ s) : Sent s (l.foldl f s) (l.map g) := by
  induction l generalizing s with
  | nil => exact Sent.nil rfl rfl rfl
  | cons a l ih =>
    have h := (hf s a hs).trans (ih (hs.trans (hl s a)))
    simpa using h

/-! The panel's limits as numbers. -/

/-- A region is valid when it is not empty and lies on the panel (R204). -/
theorem regionValid_iff {x y w h : Nat} :
    regionValid x y w h = true ↔ 1 ≤ w ∧ 1 ≤ h ∧ x + w ≤ 240 ∧ y + h ≤ 320 := by
  simp only [regionValid, Bool.and_eq_true, decide_eq_true_eq, and_assoc]
  rfl

/-- A surface can be bound when it has the panel's size (R236). -/
theorem fitsPanel_iff {cfg : Config} : fitsPanel cfg = true ↔ cfg.W.val = 240 ∧ cfg.H.val = 320 := by
  simp only [fitsPanel, Bool.and_eq_true, decide_eq_true_eq]
  rfl

/-- Every chunk of a frame has at least one pixel and at most `CHUNK_PIXELS` (R201). -/
theorem mem_frameChunks {chunk : Dim} {km : Nat × Nat} (h : km ∈ frameChunks chunk.val) :
    1 ≤ km.2 ∧ km.2 ≤ chunk.val := by
  simp only [frameChunks, List.mem_map, List.mem_range] at h
  obtain ⟨j, hj, rfl⟩ := h
  have hp := chunk.pos
  have hlt : j * chunk.val < framePixels := by
    rw [Nat.lt_iff_add_one_le, Nat.le_div_iff_mul_le hp, Nat.succ_mul] at hj
    omega
  simp only
  omega

/-! The window and the frames. -/

theorem hiByte_ofNat (n : Nat) : hiByte (BitVec.ofNat 16 n) = BitVec.ofNat 8 (n / 256) := by
  apply BitVec.eq_of_toNat_eq
  simp [hiByte, Nat.shiftRight_eq_div_pow]
  omega

theorem loByte_ofNat (n : Nat) : loByte (BitVec.ofNat 16 n) = BitVec.ofNat 8 n := by
  apply BitVec.eq_of_toNat_eq
  simp [loByte]

theorem bytesBE_ofNat (n : Nat) : bytesBE (BitVec.ofNat 16 n) = [BitVec.ofNat 8 (n / 256), BitVec.ofNat 8 n] := by
  simp [bytesBE, hiByte_ofNat, loByte_ofNat]

theorem sendAll_sameButLink (sends : List (TxnKind × List Byte)) (s : State) : SameButLink s (s.sendAll sends) :=
  SameButLink.foldl (f := fun t (p : TxnKind × List Byte) => t.send p.1 p.2) (fun t p => send_sameButLink p.1 p.2 t) sends s

/-- `sendAll` sends exactly its list. -/
theorem sendAll_sent (sends : List (TxnKind × List Byte)) (s : State) : Sent s (s.sendAll sends) sends := by
  have h := Sent.foldl (s₀ := s) (f := fun t (p : TxnKind × List Byte) => t.send p.1 p.2) (g := id)
    (fun t p => send_sameButLink p.1 p.2 t) (fun t p _ => send_sent p.1 p.2 t) sends (SameButLink.refl s)
  rwa [List.map_id] at h

theorem openWindow_sameButLink (x0 y0 x1 y1 : Nat) (s : State) : SameButLink s (s.openWindow x0 y0 x1 y1) :=
  sendAll_sameButLink _ s

/-- Opening a window sends exactly the five setup transactions (R195, R197). -/
theorem openWindow_sent (x0 y0 x1 y1 : Nat) (s : State) :
    Sent s (s.openWindow x0 y0 x1 y1) (setupSends s.cfg x0 y0 x1 y1) := by
  have h := sendAll_sent (windowSends s.cfg x0 y0 x1 y1 ++ memoryWriteSends s.cfg) s
  simpa [State.openWindow, windowSends, memoryWriteSends, rangeBytes, bytesBE_ofNat, setupSends] using h

@[simp] theorem length_packBE (cells : List Word) : (packBE cells).length = 2 * cells.length := by
  induction cells with
  | nil => rfl
  | cons c l ih => simp [packBE, bytesBE] at ih ⊢; omega

@[simp] theorem length_cellRun (s : State) (k m : Nat) : (s.cellRun k m).length = m := by simp [State.cellRun]

theorem flushRows_sameButLink (x y w : Nat) (rows : List Nat) (s : State) : SameButLink s (s.flushRows x y w rows) :=
  SameButLink.foldl (f := fun t rr => t.sendPixels (packBE (t.cellRun ((y + rr) * panelW + x) w)))
    (fun t _ => sendPixels_sameButLink _ t) rows s

/-- FLUSH_REGION's rows: one data transaction a row, from the store as it stands (R205). -/
theorem flushRows_sent (x y w : Nat) (rows : List Nat) (s : State) :
    Sent s (s.flushRows x y w rows) (rows.map fun rr => (.data, packBE (s.cellRun ((y + rr) * panelW + x) w))) :=
  Sent.foldl (s₀ := s) (f := fun t rr => t.sendPixels (packBE (t.cellRun ((y + rr) * panelW + x) w)))
    (fun t _ => sendPixels_sameButLink _ t) (fun t rr ht => by rw [ht.cellRun]; exact sendPixels_sent _ t) rows
    (SameButLink.refl s)

theorem clearPanel_sameButLink (s : State) : SameButLink s s.clearPanel :=
  (openWindow_sameButLink 0 0 (panelW - 1) (panelH - 1) s).trans
    (SameButLink.foldl (f := fun t (km : Nat × Nat) => t.sendPixels (List.replicate (2 * km.2) 0#8))
      (fun t _ => sendPixels_sameButLink _ t) _ _)

/-- `ClearPanel` sends the whole-panel window and then every chunk as zero bytes (R210). -/
theorem clearPanel_sent (s : State) :
    Sent s s.clearPanel (setupSends s.cfg 0 0 (panelW - 1) (panelH - 1)
      ++ (frameChunks s.cfg.chunkPixels.val).map fun km => (.data, List.replicate (2 * km.2) 0#8)) :=
  (openWindow_sent 0 0 (panelW - 1) (panelH - 1) s).trans
    (Sent.foldl (s₀ := s) (f := fun t (km : Nat × Nat) => t.sendPixels (List.replicate (2 * km.2) 0#8))
      (fun t _ => sendPixels_sameButLink _ t) (fun t _ _ => sendPixels_sent _ t) _
      (openWindow_sameButLink 0 0 (panelW - 1) (panelH - 1) s))

/-- The data transaction of one chunk of a frame (R200). -/
def chunkSend (s : State) (km : Nat × Nat) : TxnKind × List Byte := (.data, packBE (s.cellRun km.1 km.2))

/-- FLUSH's chunk loop when every listed chunk's send succeeds: all chunks go out and `RESULT` is 1 (R200). -/
theorem flushChunks_all {s₀ s : State} (hs : SameButLink s₀ s) (l : List (Nat × Nat))
    (h : ∀ j, j < l.length → s.sendAnswer j = true) :
    (s.flushChunks l).result = 1#16 ∧ SameButLink (s.setResult 1#16) (s.flushChunks l)
      ∧ Sent s (s.flushChunks l) (l.map (chunkSend s₀)) := by
  induction l generalizing s with
  | nil => exact ⟨rfl, rfl, Sent.nil rfl rfl rfl⟩
  | cons km l ih =>
    have h0 : s.sendAnswer 0 = true := h 0 (by simp)
    have hstep := sendPixels_sent (packBE (s.cellRun km.1 km.2)) s
    have hlink := sendPixels_sameButLink (packBE (s.cellRun km.1 km.2)) s
    have he : s.flushChunks (km :: l) = (s.sendPixels (packBE (s.cellRun km.1 km.2))).flushChunks l := by
      simp [State.flushChunks, h0]
    obtain ⟨h1, h2, h3⟩ := ih (hs.trans hlink) (fun j hj => by
      rw [hstep.sendAnswer, show [(TxnKind.data, packBE (s.cellRun km.1 km.2))].length + j = j + 1 by simp; omega]
      exact h (j + 1) (by simpa using hj))
    rw [he]
    refine ⟨h1, ?_, ?_⟩
    · exact SameButLink.trans (t := (s.sendPixels (packBE (s.cellRun km.1 km.2))).setResult 1#16) rfl h2
    · have := hstep.trans h3
      rw [hs.cellRun] at this
      simpa [chunkSend, hs.cellRun] using this

/-- FLUSH's chunk loop when chunk `j` is the first whose send fails: chunks `0 .. j` go out and `RESULT` is 0 (R200, R202). -/
theorem flushChunks_abort {s₀ s : State} (hs : SameButLink s₀ s) (l : List (Nat × Nat)) (j : Nat) (hj : j < l.length)
    (hok : ∀ i, i < j → s.sendAnswer i = true) (hfail : s.sendAnswer j = false) :
    (s.flushChunks l).result = 0#16 ∧ SameButLink (s.setResult 0#16) (s.flushChunks l)
      ∧ Sent s (s.flushChunks l) ((l.take (j + 1)).map (chunkSend s₀)) := by
  induction l generalizing s j with
  | nil => simp at hj
  | cons km l ih =>
    have hstep := sendPixels_sent (packBE (s.cellRun km.1 km.2)) s
    have hlink := sendPixels_sameButLink (packBE (s.cellRun km.1 km.2)) s
    cases j with
    | zero =>
      have he : s.flushChunks (km :: l) = (s.sendPixels (packBE (s.cellRun km.1 km.2))).setResult 0#16 := by
        simp [State.flushChunks, hfail]
      rw [he]
      refine ⟨rfl, rfl, ?_⟩
      have := hstep.trans (Sent.nil (t := (s.sendPixels (packBE (s.cellRun km.1 km.2))).setResult 0#16) rfl rfl rfl)
      simpa [chunkSend, hs.cellRun] using this
    | succ j =>
      have h0 : s.sendAnswer 0 = true := hok 0 (by omega)
      have he : s.flushChunks (km :: l) = (s.sendPixels (packBE (s.cellRun km.1 km.2))).flushChunks l := by
        simp [State.flushChunks, h0]
      have hsh : ∀ i, (s.sendPixels (packBE (s.cellRun km.1 km.2))).sendAnswer i = s.sendAnswer (i + 1) := fun i => by
        rw [hstep.sendAnswer, show [(TxnKind.data, packBE (s.cellRun km.1 km.2))].length + i = i + 1 by simp; omega]
      obtain ⟨h1, h2, h3⟩ := ih (hs.trans hlink) j (by simpa using hj)
        (fun i hi => by rw [hsh]; exact hok (i + 1) (by omega)) (by rw [hsh]; exact hfail)
      rw [he]
      refine ⟨h1, ?_, ?_⟩
      · exact SameButLink.trans (t := (s.sendPixels (packBE (s.cellRun km.1 km.2))).setResult 0#16) rfl h2
      · have := hstep.trans h3
        rw [hs.cellRun] at this
        simpa [chunkSend, hs.cellRun] using this

/-- Whatever the answers, FLUSH's chunk loop sends some first chunks of the frame and changes only `RESULT` beside the link. -/
theorem flushChunks_spec {s₀ s : State} (hs : SameButLink s₀ s) (l : List (Nat × Nat)) :
    (∃ v, SameButLink (s.setResult v) (s.flushChunks l))
      ∧ ∃ n, Sent s (s.flushChunks l) ((l.take n).map (chunkSend s₀)) := by
  by_cases h : ∃ j, j < l.length ∧ s.sendAnswer j = false
  · have hex : ∃ j, (j < l.length ∧ s.sendAnswer j = false) ∧ ∀ i, i < j → ¬ (i < l.length ∧ s.sendAnswer i = false) := by
      obtain ⟨j, hj⟩ := h
      induction j using Nat.strongRecOn with
      | ind j ih =>
        by_cases hlt : ∃ i, i < j ∧ i < l.length ∧ s.sendAnswer i = false
        · obtain ⟨i, hi, hi'⟩ := hlt
          exact ih i hi hi'
        · exact ⟨j, hj, fun i hi hi' => hlt ⟨i, hi, hi'⟩⟩
    obtain ⟨j, hj, hmin⟩ := hex
    obtain ⟨-, h2, h3⟩ := flushChunks_abort hs l j hj.1 (fun i hi => by
      cases hb : s.sendAnswer i with
      | true => rfl
      | false => exact absurd ⟨by omega, hb⟩ (hmin i hi)) hj.2
    exact ⟨⟨_, h2⟩, j + 1, h3⟩
  · obtain ⟨-, h2, h3⟩ := flushChunks_all hs l (fun j hj => by
      cases hb : s.sendAnswer j with
      | true => rfl
      | false => exact absurd ⟨j, hj, hb⟩ h)
    exact ⟨⟨_, h2⟩, l.length, by simpa using h3⟩

end Sys2Proof.Machine
end

