-- ==== Sys2Proof/Laws/Exec.lean ====
section
/-! SUPPORT. What one instruction can do, said once for all of them (`exec_effect`), and what a step can do (`step_effect`): the
whole-machine statements follow from these without unfolding a meaning. -/

namespace Sys2Proof.Machine

/-- Every instruction of the opcode map executes to a next state: none stops on any path. -/
theorem exec_next (i : Instr) (s : State) : ∃ t, exec i s = .next t := by
  cases i <;> exact ⟨_, rfl⟩

/-- The commands that write surface cells through plots. -/
def drawingOpcodes : List Opcode :=
  [.fbSetPixel, .fbDrawLine, .fbDrawRect, .fbFillRect, .fbDrawCircle, .fbFillCircle, .fbDrawChar, .fbDrawCharScaled, .fbDrawString,
   .fbDrawStringScaled, .fbDrawStringUtf8, .fbDrawStringUtf8Scaled]

/-- FB_INIT's four outcomes (R110). -/
theorem initSurface_cases (s : State) :
    (s.fbAlloc = true ∧ s.initSurface = s.clearSurface.setResult 1#16)
      ∨ (s.fbAlloc = false ∧ fitsPool s.cfg = true ∧ s.initSurface = s.usePool.clearSurface.setResult 1#16)
      ∨ (s.fbAlloc = false ∧ fitsPool s.cfg = false ∧ s.allocAnswer = true
          ∧ s.initSurface = s.drawAlloc.useFreshStore.clearSurface.setResult 1#16)
      ∨ (s.fbAlloc = false ∧ fitsPool s.cfg = false ∧ s.allocAnswer = false ∧ s.initSurface = s.drawAlloc.setResult 0#16) := by
  unfold State.initSurface
  cases s.fbAlloc <;> cases fitsPool s.cfg <;> cases s.allocAnswer <;> simp

theorem flushRect_sameButLink (x y w h : Nat) (s : State) : SameButLink s (s.flushRect x y w h) := by
  unfold State.flushRect
  split
  · exact SameButLink.refl s
  · split
    · exact (openWindow_sameButLink _ _ _ _ s).trans (flushRows_sameButLink _ _ _ _ _)
    · exact SameButLink.refl s

theorem panelPixel_sameButLink (x y : Nat) (c : Word) (s : State) : SameButLink s (s.panelPixel x y c) := by
  unfold State.panelPixel
  split
  · exact SameButLink.refl s
  · exact (openWindow_sameButLink _ _ _ _ s).trans (sendPixels_sameButLink _ _)

theorem flushFrame_sameButLink (s : State) : ∃ v, SameButLink (s.setResult v) s.flushFrame := by
  unfold State.flushFrame
  split
  · exact ⟨0#16, SameButLink.refl _⟩
  · obtain ⟨⟨v, h⟩, -⟩ := flushChunks_spec (openWindow_sameButLink 0 0 (panelW - 1) (panelH - 1) s)
      (frameChunks s.cfg.chunkPixels.val)
    exact ⟨v, SameButLink.trans (t := (s.openWindow 0 0 (panelW - 1) (panelH - 1)).setResult v) rfl h⟩

theorem initController_sameButLink (s : State) :
    SameButLink (((s.setRot 0#2).setInv true).setReady true) s.initController := by
  have h1 : SameButLink s (s.pulse.sendAll (initSends s.cfg)) :=
    SameButLink.trans (t := s.pulse) rfl (sendAll_sameButLink _ _)
  have h2 : SameButLink ((s.setRot 0#2).setInv true) (((s.pulse.sendAll (initSends s.cfg)).setRot 0#2).setInv true) := by
    unfold SameButLink at h1 ⊢
    rw [h1]
    rfl
  have h3 := h2.trans (clearPanel_sameButLink _)
  unfold SameButLink at h3 ⊢
  unfold State.initController
  rw [h3]
  rfl

/-- What one instruction can do: it acts only on its own kind of state, each kind with its frame. -/
theorem exec_effect {i : Instr} {s t : State} (h : exec i s = .next t) :
    (i.opcode = .fbInit ∧ t = s.initSurface)
      ∨ (i.opcode = .fbRelease ∧ t = s.dropStore)
      ∨ (i.opcode ∈ drawingOpcodes ∧ SameButCells s t)
      ∨ ((i.opcode = .fbDrawStringUtf8 ∨ i.opcode = .fbDrawStringUtf8Scaled)
          ∧ ∃ u, SameButCells s u ∧ t = u.raise .malformedUtf8)
      ∨ ((i.opcode = .fbGetPixel ∨ i.opcode = .packRgb565) ∧ SameButResult s t)
      ∨ (i.opcode = .flush ∧ t = s.flushFrame ∧ ∃ v, SameButLink (s.setResult v) t)
      ∨ ((i.opcode = .flushRegion ∨ i.opcode = .panelWritePixel) ∧ SameButLink s t)
      ∨ (i.opcode = .ctrlInit ∧ t = s.initController ∧ SameButLink (((s.setRot 0#2).setInv true).setReady true) t)
      ∨ (i.opcode = .bindFb ∧ ((fitsPanel s.cfg = true ∧ t = (s.setBound true).setResult 1#16)
          ∨ (fitsPanel s.cfg = false ∧ t = s.setResult 0#16)))
      ∨ (i.opcode = .unbindFb ∧ t = s.setBound false)
      ∨ (i.opcode = .setRotation ∧ ∃ r, SameButLink (s.setRot r) t)
      ∨ (i.opcode = .setInversion ∧ ∃ v, SameButLink (s.setInv v) t) := by
  have plain : ∀ {u : State} {op : Opcode}, i.opcode = op → op ∈ drawingOpcodes → SameButCells s u → t = u →
      i.opcode ∈ drawingOpcodes ∧ SameButCells s t := fun ho hm hu ht => ⟨ho ▸ hm, ht ▸ hu⟩
  cases i <;> cases h
  case fbInit => exact .inl ⟨rfl, rfl⟩
  case fbRelease => exact .inr (.inl ⟨rfl, rfl⟩)
  case fbSetPixel => exact .inr (.inr (.inl (plain rfl (by simp [drawingOpcodes, Instr.opcode]) (plot_sameButCells _ _ _ _) rfl)))
  case fbGetPixel => exact .inr (.inr (.inr (.inr (.inl ⟨.inl rfl, rfl⟩))))
  case fbDrawLine => exact .inr (.inr (.inl (plain rfl (by simp [drawingOpcodes, Instr.opcode]) (plotAll_sameButCells _ _ _) rfl)))
  case fbDrawRect => exact .inr (.inr (.inl (plain rfl (by simp [drawingOpcodes, Instr.opcode]) (plotAll_sameButCells _ _ _) rfl)))
  case fbFillRect => exact .inr (.inr (.inl (plain rfl (by simp [drawingOpcodes, Instr.opcode]) (memFill_sameButCells _ _ _) rfl)))
  case fbDrawCircle => exact .inr (.inr (.inl (plain rfl (by simp [drawingOpcodes, Instr.opcode]) (plotAll_sameButCells _ _ _) rfl)))
  case fbFillCircle => exact .inr (.inr (.inl (plain rfl (by simp [drawingOpcodes, Instr.opcode]) (plotAll_sameButCells _ _ _) rfl)))
  case fbDrawChar => exact .inr (.inr (.inl (plain rfl (by simp [drawingOpcodes, Instr.opcode]) (blit_sameButCells _ _ _ _ _ _ _) rfl)))
  case fbDrawCharScaled => exact .inr (.inr (.inl (plain rfl (by simp [drawingOpcodes, Instr.opcode]) (blit_sameButCells _ _ _ _ _ _ _) rfl)))
  case fbDrawString x y fg bg bytes =>
    rcases textFrom_spec y.toNat fg bg 1 (codePoints false bytes) x.toNat s with h | ⟨hn, -⟩
    · exact .inr (.inr (.inl (plain rfl (by simp [drawingOpcodes, Instr.opcode]) h rfl)))
    · exact absurd hn (none_not_mem_codePoints bytes)
  case fbDrawStringScaled x y fg bg bytes scale =>
    rcases textFrom_spec y.toNat fg bg (scaleOf scale) (codePoints false bytes) x.toNat s with h | ⟨hn, -⟩
    · exact .inr (.inr (.inl (plain rfl (by simp [drawingOpcodes, Instr.opcode]) h rfl)))
    · exact absurd hn (none_not_mem_codePoints bytes)
  case fbDrawStringUtf8 x y fg bg bytes =>
    rcases textFrom_spec y.toNat fg bg 1 (codePoints true bytes) x.toNat s with h | ⟨-, u, hu, he⟩
    · exact .inr (.inr (.inl (plain rfl (by simp [drawingOpcodes, Instr.opcode]) h rfl)))
    · exact .inr (.inr (.inr (.inl ⟨.inl rfl, u, hu, he⟩)))
  case fbDrawStringUtf8Scaled x y fg bg bytes scale =>
    rcases textFrom_spec y.toNat fg bg (scaleOf scale) (codePoints true bytes) x.toNat s with h | ⟨-, u, hu, he⟩
    · exact .inr (.inr (.inl (plain rfl (by simp [drawingOpcodes, Instr.opcode]) h rfl)))
    · exact .inr (.inr (.inr (.inl ⟨.inr rfl, u, hu, he⟩)))
  case packRgb565 => exact .inr (.inr (.inr (.inr (.inl ⟨.inr rfl, rfl⟩))))
  case flush => exact .inr (.inr (.inr (.inr (.inr (.inl ⟨rfl, rfl, flushFrame_sameButLink s⟩)))))
  case flushRegion =>
    exact .inr (.inr (.inr (.inr (.inr (.inr (.inl ⟨.inl rfl, flushRect_sameButLink _ _ _ _ s⟩))))))
  case panelWritePixel =>
    exact .inr (.inr (.inr (.inr (.inr (.inr (.inl ⟨.inr rfl, panelPixel_sameButLink _ _ _ s⟩))))))
  case ctrlInit =>
    exact .inr (.inr (.inr (.inr (.inr (.inr (.inr (.inl ⟨rfl, rfl, initController_sameButLink s⟩)))))))
  case bindFb =>
    refine .inr (.inr (.inr (.inr (.inr (.inr (.inr (.inr (.inl ⟨rfl, ?_⟩))))))))
    cases hf : fitsPanel s.cfg <;> simp
  case unbindFb => exact .inr (.inr (.inr (.inr (.inr (.inr (.inr (.inr (.inr (.inl ⟨rfl, rfl⟩)))))))))
  case setRotation r =>
    exact .inr (.inr (.inr (.inr (.inr (.inr (.inr (.inr (.inr (.inr (.inl ⟨rfl, r, rfl⟩))))))))))
  case setInversion v =>
    exact .inr (.inr (.inr (.inr (.inr (.inr (.inr (.inr (.inr (.inr (.inr ⟨rfl, v, rfl⟩))))))))))

/-! Steps. -/

theorem retire_of_halted {t : State} (n : Nat) (h : t.halted = true) : t.retire n = t := by
  obtain ⟨⟩ := t
  simp only at h
  subst h
  rfl

theorem retire_of_running {t : State} (n : Nat) (h : t.halted = false) :
    t.retire n = { t with cp := t.cp + BitVec.ofNat 32 n } := by simp [State.retire, h]

/-- What the engine found when it fetched a command: a running engine, words left, and their decoding. -/
theorem fetch_command {s : State} {i : Instr} (h : s.fetch = .command i) :
    s.halted = false ∧ decode (s.stream.drop s.cp.toNat) = .ok i := by
  unfold State.fetch at h
  split at h
  · cases h
  · split at h
    · cases h
    · split at h <;> first | cases h | skip
      exact ⟨by simp_all, ‹_›⟩

/-- What one step that goes on can do: it takes the IllegalCommand fault, or it runs the command it fetched. -/
theorem step_effect {s t : State} (h : step s = .next t) :
    s.halted = false ∧ s.cp.toNat ≠ s.stream.length
      ∧ ((s.fetch = .illegal ∧ t = s.raise .illegalCommand)
        ∨ ∃ i u, s.fetch = .command i ∧ decode (s.stream.drop s.cp.toNat) = .ok i ∧ exec i s = .next u ∧ t = u.retire i.words) := by
  have hh : s.halted = false := by
    cases hs : s.halted with
    | false => rfl
    | true => simp [step, State.fetch, hs] at h
  have hc : s.cp.toNat ≠ s.stream.length := fun hc => by simp [step, State.fetch, hh, hc] at h
  refine ⟨hh, hc, ?_⟩
  unfold step at h
  split at h
  · cases h
  · cases h
  · cases h
  · cases h; exact .inl ⟨‹_›, rfl⟩
  · rename_i i hf
    obtain ⟨u, hu⟩ := exec_next i s
    rw [hu] at h
    cases h
    exact .inr ⟨i, u, hf, (fetch_command hf).2, hu, rfl⟩

end Sys2Proof.Machine
end

