-- ==== Sys2Proof/Laws/HostPort.lean ====
section
/-! SUPPORT. What the host's moves can do, said once: supplying words only appends them, and only within the host's duty; and placing a
word to fetch leaves the words already fetched. -/

namespace Sys2Proof.Machine

/-- Supplying words is the host's move exactly when the stream stays short, and then it only appends (R98, R276). -/
theorem supply_eq_some_iff {s t : State} {words : List Word} :
    s.supply words = some t ↔ s.stream.length + words.length < 2 ^ 32 ∧ t = { s with stream := s.stream ++ words } := by
  simp only [State.supply, Option.ite_none_right_eq_some, Option.some.injEq, eq_comm (a := t)]

/-- Words placed at `cp` leave every word fetched before it. -/
theorem withFetchWord_take {s : State} (h : s.cp.toNat ≤ s.stream.length) (nbits w : Nat) :
    (s.withFetchWord nbits w).stream.take s.cp.toNat = s.stream.take s.cp.toNat := by
  simp only [State.withFetchWord, List.append_assoc]
  rw [List.take_append_of_le_length (by rw [List.length_take]; omega), List.take_take, Nat.min_self]

/-- A transaction's bytes that fit the buffer leave its size (R40). -/
theorem length_writeScratch {s : State} {bytes : List Byte} (h : bytes.length ≤ s.scratch.length) :
    (s.writeScratch bytes).scratch.length = s.scratch.length := by
  simp only [State.writeScratch_scratch, List.length_append, List.length_drop]
  omega

end Sys2Proof.Machine
end

