-- ==== Sys2Proof/Laws/PerInstr.lean ====
section
/-! SUPPORT. Statements about every instruction as syntax, one lemma for each constructor.

Family `HeaderFindsRow`: an instruction's first word names its own row of the opcode map, its `aux` is legal there, and its packet
has the row's length (R81, R86, R87, R88, R90). -/

namespace Sys2Proof.Laws.HeaderFindsRow

/-- The header word of `i` leads the decoder to `i`'s row, and the packet has that row's length. -/
def Statement (i : Instr) : Prop :=
  ∀ pad, opcodeOf (hiByte (wordOf (opcodeByte i.opcode) i.aux)) = some i.opcode
    ∧ auxLegal (opcodeAux i.opcode) (loByte (wordOf (opcodeByte i.opcode) i.aux)) = true
    ∧ (encodePadded pad i).length = i.words

theorem all (i : Instr) : Statement i := fun pad => by simp [length_encodePadded]

theorem fbInit : Statement (.fbInit) := all _
theorem fbRelease : Statement (.fbRelease) := all _
theorem fbSetPixel (x y c : Word) : Statement (.fbSetPixel x y c) := all _
theorem fbGetPixel (x y : Word) : Statement (.fbGetPixel x y) := all _
theorem fbDrawLine (x0 y0 x1 y1 c : Word) : Statement (.fbDrawLine x0 y0 x1 y1 c) := all _
theorem fbDrawRect (x y w h c : Word) : Statement (.fbDrawRect x y w h c) := all _
theorem fbFillRect (x y w h c : Word) : Statement (.fbFillRect x y w h c) := all _
theorem fbDrawCircle (cx cy r c : Word) : Statement (.fbDrawCircle cx cy r c) := all _
theorem fbFillCircle (cx cy r c : Word) : Statement (.fbFillCircle cx cy r c) := all _
theorem fbDrawChar (x y cpt fg bg : Word) : Statement (.fbDrawChar x y cpt fg bg) := all _
theorem fbDrawCharScaled (x y cpt fg bg : Word) (scale : Byte) : Statement (.fbDrawCharScaled x y cpt fg bg scale) := all _
theorem fbDrawString (x y fg bg : Word) (bytes : List Byte) : Statement (.fbDrawString x y fg bg bytes) := all _
theorem fbDrawStringScaled (x y fg bg : Word) (bytes : List Byte) (scale : Byte) : Statement (.fbDrawStringScaled x y fg bg bytes scale) := all _
theorem fbDrawStringUtf8 (x y fg bg : Word) (bytes : List Byte) : Statement (.fbDrawStringUtf8 x y fg bg bytes) := all _
theorem fbDrawStringUtf8Scaled (x y fg bg : Word) (bytes : List Byte) (scale : Byte) : Statement (.fbDrawStringUtf8Scaled x y fg bg bytes scale) := all _
theorem packRgb565 (r g b : Byte) : Statement (.packRgb565 r g b) := all _
theorem flush : Statement (.flush) := all _
theorem flushRegion (x y w h : Word) : Statement (.flushRegion x y w h) := all _
theorem panelWritePixel (x y c : Word) : Statement (.panelWritePixel x y c) := all _
theorem ctrlInit : Statement (.ctrlInit) := all _
theorem bindFb : Statement (.bindFb) := all _
theorem unbindFb : Statement (.unbindFb) := all _
theorem setRotation (rotation : BitVec 2) : Statement (.setRotation rotation) := all _
theorem setInversion (on : Bool) : Statement (.setInversion on) := all _

end Sys2Proof.Laws.HeaderFindsRow
end

