-- ==== Sys2Proof/Laws/Raster.lean ====
section
/-! SUPPORT. Which pixels the shapes have (R133, R137), what a painted shape leaves in the cell of a pixel, and that the fuel of the
circle walk is never what ends it (R135). -/

namespace Sys2Proof.Machine

/-- The cell of a pixel given by natural numbers (R35, R113). -/
theorem cellOf_natCast {cfg : Config} {px py : Nat} :
    cellOf cfg (px : Int) (py : Int) = if px < cfg.W.val ∧ py < cfg.H.val then some (cellAddr cfg px py) else none := by
  unfold cellOf
  by_cases h : px < cfg.W.val ∧ py < cfg.H.val
  · rw [if_pos (by omega), if_pos h]; rfl
  · rw [if_neg (by omega), if_neg h]

/-- What a painted shape leaves in the cell of a pixel inside the surface, and in every address outside it. -/
theorem Painted.cell {s t : State} {pixels : List (Int × Int)} {c : Word} (h : Painted s t (s.plotCells pixels) c) :
    (∀ px py : Nat, px < s.cfg.W.val → py < s.cfg.H.val → t.memRead (cellAddr s.cfg px py) =
        if s.fbAlloc = true ∧ ((px : Int), (py : Int)) ∈ pixels then c else s.memRead (cellAddr s.cfg px py))
      ∧ ∀ a, surfaceCells s.cfg ≤ a → t.memRead a = s.memRead a := by
  constructor
  · intro px py hx hy
    rw [h]
    congr 1
    rw [mem_plotCells]
    refine propext (and_congr_right fun _ => ⟨?_, fun hp => ⟨_, hp, by rw [cellOf_natCast, if_pos ⟨hx, hy⟩]⟩⟩)
    rintro ⟨⟨p1, p2⟩, hp, hc⟩
    obtain ⟨h1, h2, h3, h4, h5⟩ := cellOf_eq_some.mp hc
    have h6 := cellAddr_inj (x := px) (y := py) hx (by omega) h5
    simp only at h1 h3 h6
    rw [show (px : Int) = p1 by omega, show (py : Int) = p2 by omega]
    exact hp
  · intro a ha
    rw [h, if_neg]
    rw [mem_plotCells]
    rintro ⟨-, p, -, hc⟩
    obtain ⟨h1, h2, h3, h4, h5⟩ := cellOf_eq_some.mp hc
    have := cellAddr_lt (cfg := s.cfg) (x := p.1.toNat) (y := p.2.toNat) (by omega) (by omega)
    omega

/-- The perimeter of a rectangle (R133). -/
theorem mem_rectPixels {x y px py : Int} {w h : Nat} :
    (px, py) ∈ rectPixels x y w h ↔
      (x ≤ px ∧ px < x + w) ∧ (y ≤ py ∧ py < y + h) ∧ (px = x ∨ px + 1 = x + w ∨ py = y ∨ py + 1 = y + h) := by
  unfold rectPixels
  split
  · simp; omega
  · simp only [List.mem_append, List.mem_flatMap, List.mem_range, List.mem_cons, Prod.mk.injEq, List.not_mem_nil, or_false]
    constructor
    · rintro (⟨i, hi, h | h⟩ | ⟨j, hj, h | h⟩) <;> omega
    · rintro ⟨h1, h2, h3⟩
      by_cases h4 : py = y ∨ py + 1 = y + h
      · left; exact ⟨(px - x).toNat, by omega, by omega⟩
      · right; exact ⟨(py - y).toNat, by omega, by omega⟩

theorem mem_diskOffsets {r : Nat} {d : Int} : d ∈ diskOffsets r ↔ -(r : Int) ≤ d ∧ d ≤ r := by
  unfold diskOffsets
  simp only [List.mem_map, List.mem_range]
  constructor
  · rintro ⟨i, hi, rfl⟩; omega
  · intro h; exact ⟨(d + r).toNat, by omega, by omega⟩

/-- The walk of R135 ends because `px` reaches `py`, never because `fuel` runs out: any fuel of at least `py - px` gives the same
pixels. -/
theorem circleWalk_fuel (cx cy : Int) (m n : Nat) (f ddx ddy px py : Int) (hm : py - px ≤ m) (hn : py - px ≤ n) :
    circleWalk cx cy m f ddx ddy px py = circleWalk cx cy n f ddx ddy px py := by
  induction m generalizing n f ddx ddy px py with
  | zero => cases n <;> simp [circleWalk]; omega
  | succ m ih =>
    cases n with
    | zero => simp [circleWalk]; omega
    | succ n =>
      unfold circleWalk
      split
      · split
        · rw [ih n _ _ _ _ _ (by omega) (by omega)]
        · rw [ih n _ _ _ _ _ (by omega) (by omega)]
      · rfl

end Sys2Proof.Machine
end

