-- ==== Sys2Proof/Tests/Slice0.lean ====
section
/-! SUPPORT. Tests: the well-formedness smoke, words written out from the encoding of 30_encoding.md, at most two one-step tests for
each instruction, and for every obligation with hypotheses a concrete input that meets them. The expected results are those of
95_test_vectors.md (V1 to V9, P3, P4) or are worked out by hand from the rule named in the test's comment. -/

namespace Sys2Proof.Tests

open Sys2Proof.Machine

/-! Helpers. -/

/-- The glyph "A" of 95_test_vectors.md (39 set bits). -/
def fixA : Glyph :=
  #v[0x00, 0x00, 0x10, 0x38, 0x6C, 0xC6, 0xC6, 0xFE, 0xC6, 0xC6, 0xC6, 0xC6, 0x00, 0x00, 0x00, 0x00]

/-- The fixture ROM, for the code points the tests draw. -/
def fixture : List (Word × Glyph) := [(0x41#16, fixA), (0x0410#16, fixA)]

/-- A configuration of a given size with the fixture ROM. -/
def sized (w h chunk : Dim) : Config := { W := w, H := h, chunkPixels := chunk, glyphs := fixture }

def d16 : Dim := ⟨16, by decide, by decide⟩
def d40 : Dim := ⟨40, by decide, by decide⟩
def d240 : Dim := ⟨240, by decide, by decide⟩
def d320 : Dim := ⟨320, by decide, by decide⟩
def d512 : Dim := ⟨512, by decide, by decide⟩
def d2 : Dim := ⟨2, by decide, by decide⟩
def big : Dim := ⟨65535, by decide, by decide⟩

/-- The panel-sized configuration with the fixture ROM. -/
def panelCfg : Config := sized d240 d320 d512

/-- Just after reset, with a configuration, a stream, and the answers of the next sends. -/
def fresh (cfg : Config) (words : List Word) (sends : List Bool) : State := State.resetWith cfg words [] 0 sends 0

/-- An allocated dynamic surface with the listed cells. -/
def drawn (cfg : Config) (cells : Store) : State := { fresh cfg [] [] with fbAlloc := true, dynCells := cells }

/-- The state after one step on the given packet; the state itself where there is no next state. -/
def ran (words : List Word) (s : State) : State :=
  match step { s with stream := words, cp := 0#32 } with
  | .next t => t
  | .fault _ => s
  | .refused _ => s

/-- The step on the given packet from reset raises IllegalCommand, changing nothing else (V1's legality table). -/
def faults (words : List Word) : Bool :=
  match step (fresh panelCfg words []) with
  | .next t => t == { fresh panelCfg words [] with faultCode := 1#8, faultCp := 0#32, halted := true }
  | .fault _ => false
  | .refused _ => false

/-- The outcome is this next state. -/
def nextIs (o : Host.Outcome State Fault Refusal) (t : State) : Bool :=
  match o with
  | .next u => u == t
  | .fault _ => false
  | .refused _ => false

theorem nextIs_eq {o : Host.Outcome State Fault Refusal} {t : State} (h : nextIs o t = true) : o = .next t := by
  cases o <;> simp_all [nextIs]

/-! Well-formedness: the one check refuses an ill-formed term, and accepts the longest string. -/

theorem test_wf_refuses_long_strings :
    Instr.wf (.fbDrawString 0#16 0#16 0#16 0#16 (List.replicate 65536 0x41#8)) = false
      ∧ Instr.wf (.fbDrawStringScaled 0#16 0#16 0#16 0#16 (List.replicate 65536 0x41#8) 1#8) = false
      ∧ Instr.wf (.fbDrawStringUtf8 0#16 0#16 0#16 0#16 (List.replicate 65536 0x41#8)) = false
      ∧ Instr.wf (.fbDrawStringUtf8Scaled 0#16 0#16 0#16 0#16 (List.replicate 65536 0x41#8) 1#8) = false := by
  simp only [Instr.wf, stringFits, List.length_replicate, and_self]
  decide

theorem test_wf_accepts_the_longest_string :
    Instr.wf (.fbDrawString 0#16 0#16 0#16 0#16 (List.replicate 65535 0x41#8)) = true := by
  simp only [Instr.wf, stringFits, List.length_replicate]
  decide

/-! Decoding: every row of R87's map, by a word list written out from its opcode, format and operand order. -/

theorem test_decode_surface :
    decode [0x0100#16] = .ok .fbInit
      ∧ decode [0x0200#16] = .ok .fbRelease
      ∧ decode [0x0300#16, 0x000A#16, 0x0014#16, 0xF800#16] = .ok (.fbSetPixel 10#16 20#16 0xF800#16)
      ∧ decode [0x0400#16, 0x000A#16, 0x0014#16] = .ok (.fbGetPixel 10#16 20#16) := ⟨rfl, rfl, rfl, rfl⟩

theorem test_decode_raster :
    decode [0x1000#16, 1#16, 2#16, 5#16, 3#16, 0xFFFF#16] = .ok (.fbDrawLine 1#16 2#16 5#16 3#16 0xFFFF#16)
      ∧ decode [0x1100#16, 1#16, 2#16, 3#16, 4#16, 5#16] = .ok (.fbDrawRect 1#16 2#16 3#16 4#16 5#16)
      ∧ decode [0x1200#16, 0#16, 0#16, 0x00F0#16, 0x0140#16, 0x001F#16] = .ok (.fbFillRect 0#16 0#16 240#16 320#16 0x001F#16)
      ∧ decode [0x1300#16, 10#16, 11#16, 3#16, 0x07E0#16] = .ok (.fbDrawCircle 10#16 11#16 3#16 0x07E0#16)
      ∧ decode [0x1400#16, 10#16, 11#16, 3#16, 0x07E0#16] = .ok (.fbFillCircle 10#16 11#16 3#16 0x07E0#16) :=
  ⟨rfl, rfl, rfl, rfl, rfl⟩

theorem test_decode_glyph :
    decode [0x2000#16, 1#16, 2#16, 0x0410#16, 3#16, 4#16] = .ok (.fbDrawChar 1#16 2#16 0x0410#16 3#16 4#16)
      ∧ decode [0x2102#16, 0#16, 0#16, 0x0041#16, 0xFFFF#16, 0#16]
          = .ok (.fbDrawCharScaled 0#16 0#16 0x41#16 0xFFFF#16 0#16 2#8)
      ∧ decode [0x2200#16, 0#16, 0#16, 0xFFFF#16, 0#16, 2#16, 0x4241#16]
          = .ok (.fbDrawString 0#16 0#16 0xFFFF#16 0#16 [0x41#8, 0x42#8])
      ∧ decode [0x23FF#16, 1#16, 2#16, 3#16, 4#16, 0#16] = .ok (.fbDrawStringScaled 1#16 2#16 3#16 4#16 [] 0xFF#8)
      ∧ decode [0x2400#16, 0#16, 0#16, 0xFFFF#16, 0#16, 3#16, 0x90D0#16, 0x0041#16]
          = .ok (.fbDrawStringUtf8 0#16 0#16 0xFFFF#16 0#16 [0xD0#8, 0x90#8, 0x41#8])
      ∧ decode [0x2503#16, 1#16, 2#16, 3#16, 4#16, 1#16, 0xEE41#16]
          = .ok (.fbDrawStringUtf8Scaled 1#16 2#16 3#16 4#16 [0x41#8] 3#8) := ⟨rfl, rfl, rfl, rfl, rfl, rfl⟩

theorem test_decode_serializer :
    decode [0x3000#16, 0x00FF#16, 0x0080#16, 0x0001#16] = .ok (.packRgb565 255#8 128#8 1#8)
      ∧ decode [0x3100#16] = .ok .flush
      ∧ decode [0x3200#16, 0x003C#16, 0x003D#16, 0x0078#16, 0x00C8#16] = .ok (.flushRegion 60#16 61#16 120#16 200#16)
      ∧ decode [0x3300#16, 1#16, 2#16, 0x07E0#16] = .ok (.panelWritePixel 1#16 2#16 0x07E0#16) := ⟨rfl, rfl, rfl, rfl⟩

theorem test_decode_controller :
    decode [0x4000#16] = .ok .ctrlInit
      ∧ decode [0x4100#16] = .ok .bindFb
      ∧ decode [0x4200#16] = .ok .unbindFb
      ∧ decode [0x4303#16] = .ok (.setRotation 3#2)
      ∧ decode [0x4301#16] = .ok (.setRotation 1#2)
      ∧ decode [0x4401#16] = .ok (.setInversion true)
      ∧ decode [0x4400#16] = .ok (.setInversion false) := ⟨rfl, rfl, rfl, rfl, rfl, rfl, rfl⟩

/-- The packet's first bits as spec/opcode_table.json numbers them: the header is bits 15:0, the first operand bits 31:16. -/
theorem test_decode_table_word :
    decodeTableWord 64 0xF800001400000300 = some (.fbSetPixel 0#16 20#16 0xF800#16)
      ∧ decodeTableWord 16 0x4303 = some (.setRotation 3#2)
      ∧ decodeTableWord 16 0x4304 = none := by decide

/-- V1's legality table, and the opcode bytes at the edges of R91's reserved ranges. -/
theorem test_illegal_packets_fault :
    (faults [0x0000#16] && faults [0x0500#16] && faults [0xFF00#16] && faults [0x0101#16]
      && faults [0x4304#16] && faults [0x4402#16] && faults [0x3000#16, 0x0100#16, 0#16, 0#16]
      && faults [0x0F00#16] && faults [0x1500#16] && faults [0x2600#16] && faults [0x3400#16]
      && faults [0x4500#16]) = true := by decide +kernel

/-- V1's short stream: neither a fault nor an end. -/
theorem test_short_stream_waits :
    step (fresh panelCfg [0x0300#16, 0x0001#16] []) = .refused .awaitingWords := rfl

/-! One step of each instruction. -/

/-- V2: the pool is used without asking the allocator. -/
theorem test_fbInit_static :
    let s := ran [0x0100#16]
      (State.resetWith { panelCfg with staticCap := some ⟨76800, by decide⟩ } [] [false] 0 [] 0)
    s.result = 1#16 ∧ s.status = 0x0003#16 ∧ s.allocDraws = 0 := by decide

/-- V2: the dynamic path reports the allocator's failure. -/
theorem test_fbInit_allocation_fails :
    let s := ran [0x0100#16]
      (State.resetWith { panelCfg with staticCap := some ⟨1000, by decide⟩ } [] [false] 0 [] 0)
    s.result = 0#16 ∧ s.status = 0x0000#16 ∧ s.allocDraws = 1 := by decide

theorem test_fbRelease : (ran [0x0200#16] (drawn panelCfg [(7, 1#16)])).status = 0x0000#16 := by decide

/-- V2: the last cell of the surface. -/
theorem test_fbSetPixel_last_cell :
    (ran [0x0300#16, 239#16, 319#16, 0xABCD#16] (drawn panelCfg [])).dynCells = [(76799, 0xABCD#16)] := by decide

theorem test_fbSetPixel_off_surface :
    (ran [0x0300#16, 240#16, 319#16, 0xABCD#16] (drawn panelCfg [])).dynCells = [] := by decide

theorem test_fbGetPixel :
    (ran [0x0400#16, 10#16, 20#16] (drawn panelCfg [(4810, 0xF800#16)])).result = 0xF800#16 := by decide

/-- V3: (0,0) (1,0) (2,1) (3,1) (4,2) (5,2) on a surface 16 wide. -/
theorem test_fbDrawLine :
    (ran [0x1000#16, 0#16, 0#16, 5#16, 2#16, 9#16] (drawn (sized d16 d16 d512) [])).dynCells
      = [(0, 9#16), (1, 9#16), (18, 9#16), (19, 9#16), (36, 9#16), (37, 9#16)] := by decide

/-- V3: steep, endpoints reversed: (0,0) (0,1) (0,2) (1,3) (1,4) (1,5). -/
theorem test_fbDrawLine_steep :
    (ran [0x1000#16, 1#16, 5#16, 0#16, 0#16, 9#16] (drawn (sized d16 d16 d512) [])).dynCells
      = [(0, 9#16), (16, 9#16), (32, 9#16), (49, 9#16), (65, 9#16), (81, 9#16)] := by decide

/-- V4: clipped at the right edge, not rejected. -/
theorem test_fbDrawRect_clips :
    (ran [0x1100#16, 238#16, 0#16, 5#16, 2#16, 9#16] (drawn panelCfg [])).dynCells
      = [(238, 9#16), (239, 9#16), (478, 9#16), (479, 9#16)] := by decide

/-- V4: one column off the surface rejects the whole fill. -/
theorem test_fbFillRect_rejects :
    (ran [0x1200#16, 231#16, 0#16, 10#16, 5#16, 9#16] (drawn panelCfg [])).dynCells = [] := by decide

/-- R134: a fill up to the last column is accepted. -/
theorem test_fbFillRect_fits :
    (ran [0x1200#16, 238#16, 1#16, 2#16, 2#16, 9#16] (drawn panelCfg [])).dynCells
      = [(478, 9#16), (479, 9#16), (718, 9#16), (719, 9#16)] := by decide

/-- V5: the clipped outline (0,2) (1,2) (2,0) (2,1). -/
theorem test_fbDrawCircle_clips :
    (ran [0x1300#16, 0#16, 0#16, 2#16, 9#16] (drawn (sized d16 d16 d512) [])).dynCells
      = [(2, 9#16), (18, 9#16), (32, 9#16), (33, 9#16)] := by decide

/-- V5: the outline of radius 4 has 24 pixels. -/
theorem test_fbDrawCircle_count :
    (ran [0x1300#16, 10#16, 10#16, 4#16, 9#16] (drawn (sized d16 d16 d512) [])).dynCells.length = 24 := by decide

/-- V5: the disc of radius 1 at a corner. -/
theorem test_fbFillCircle_clips :
    (ran [0x1400#16, 0#16, 0#16, 1#16, 9#16] (drawn (sized d16 d16 d512) [])).dynCells
      = [(0, 9#16), (1, 9#16), (16, 9#16)] := by decide

/-- V5: 13 cells at radius 2. -/
theorem test_fbFillCircle_count :
    (ran [0x1400#16, 10#16, 10#16, 2#16, 9#16] (drawn (sized d16 d16 d512) [])).dynCells.length = 13 := by decide

/-- V6: 39 cells; row 2 of the glyph has its one bit in column 3. -/
theorem test_fbDrawChar :
    let s := ran [0x2000#16, 0#16, 0#16, 0x41#16, 0xFFFF#16, 0#16] (drawn (sized d16 d16 d512) [])
    s.dynCells.length = 39 ∧ s.dynCells.head? = some (35, 0xFFFF#16) := by decide

/-- V6: an opaque background paints the other 89 cells of the footprint. -/
theorem test_fbDrawChar_background :
    (ran [0x2000#16, 0#16, 0#16, 0x41#16, 0xFFFF#16, 0xF800#16] (drawn (sized d16 d16 d512) [])).dynCells.countP
      (fun cell => cell.2 == 0xF800#16) = 89 := by decide +kernel

/-- V6: at scale 2 row 2's bit becomes (6,4) (7,4) (6,5) (7,5). -/
theorem test_fbDrawCharScaled :
    (ran [0x2102#16, 0#16, 0#16, 0x41#16, 0xFFFF#16, 0#16] (drawn (sized d16 ⟨6, by decide, by decide⟩ d512) [])).dynCells
      = [(70, 0xFFFF#16), (71, 0xFFFF#16), (86, 0xFFFF#16), (87, 0xFFFF#16)] := by decide +kernel

/-- V6: NUL ends the string, so only the first glyph is drawn. -/
theorem test_fbDrawString_nul :
    (ran [0x2200#16, 0#16, 0#16, 0xFFFF#16, 0#16, 3#16, 0x0041#16, 0x0041#16] (drawn panelCfg [])).dynCells.length = 39 := by
  decide

/-- V6: no room for one glyph; the packet's 7 words are still consumed. -/
theorem test_fbDrawString_no_room :
    let s := ran [0x2200#16, 233#16, 0#16, 0xFFFF#16, 0#16, 1#16, 0x0041#16] (drawn panelCfg [])
    s.dynCells = [] ∧ s.cp = 7#32 := by decide

/-- R171, R176: at scale 2 on a surface 40 wide two of three glyphs fit; rows 0 to 5 show row 2's bit of each as 4 cells. -/
theorem test_fbDrawStringScaled :
    (ran [0x2302#16, 0#16, 0#16, 0xFFFF#16, 0#16, 3#16, 0x4141#16, 0x0041#16]
      (drawn (sized d40 ⟨6, by decide, by decide⟩ d512) [])).dynCells
      = [(166, 0xFFFF#16), (167, 0xFFFF#16), (182, 0xFFFF#16), (183, 0xFFFF#16),
         (206, 0xFFFF#16), (207, 0xFFFF#16), (222, 0xFFFF#16), (223, 0xFFFF#16)] := by decide +kernel

/-- V6: a two-byte code point and a one-byte one: 78 cells, and `cp` advances by 8. -/
theorem test_fbDrawStringUtf8 :
    let s := ran [0x2400#16, 0#16, 0#16, 0xFFFF#16, 0#16, 3#16, 0x90D0#16, 0x0041#16] (drawn panelCfg [])
    s.dynCells.length = 78 ∧ s.cp = 8#32 := by decide

/-- V6: `41 80` at x = 232 draws the A and then faults; at x = 240 it does neither. -/
theorem test_fbDrawStringUtf8_truncation :
    (let s := ran [0x2400#16, 232#16, 0#16, 0xFFFF#16, 0#16, 2#16, 0x8041#16] (drawn panelCfg [])
     s.dynCells.length = 39 ∧ s.halted = true ∧ s.faultCode = 2#8 ∧ s.cp = 0#32)
      ∧ (let s := ran [0x2400#16, 240#16, 0#16, 0xFFFF#16, 0#16, 2#16, 0x8041#16] (drawn panelCfg [])
         s.dynCells = [] ∧ s.halted = false ∧ s.cp = 7#32) := by decide

/-- R164, R178: at scale 3 row 2's bit becomes the 9 cells x 9..11, y 6..8. -/
theorem test_fbDrawStringUtf8Scaled :
    (ran [0x2503#16, 0#16, 0#16, 1#16, 0#16, 2#16, 0x90D0#16]
      (drawn (sized d40 ⟨9, by decide, by decide⟩ d512) [])).dynCells
      = [(249, 1#16), (250, 1#16), (251, 1#16), (289, 1#16), (290, 1#16), (291, 1#16), (329, 1#16), (330, 1#16), (331, 1#16)] := by
  decide +kernel

/-- V7. -/
theorem test_packRgb565 :
    (ran [0x3000#16, 0x12#16, 0x34#16, 0x56#16] (fresh panelCfg [] [])).result = 0x11AA#16
      ∧ (ran [0x3000#16, 0xF7#16, 0xFB#16, 0xF7#16] (fresh panelCfg [] [])).result = 0xF7DE#16 := by decide

/-- R200, R202: the first chunk's send fails, a failed setup send before it does not matter. -/
theorem test_flush_aborts :
    let s := ran [0x3100#16]
      { drawn (sized d240 d320 d2) [(1, 0xF800#16)] with bound := true, sendAnswers := [true, false, true, true, true, false] }
    s.result = 0#16 ∧ s.log.length = 6
      ∧ s.log[1]? = some (.txn .data [0#8, 0#8, 0#8, 0xEF#8] false)
      ∧ s.log[5]? = some (.txn .data [0#8, 0#8, 0xF8#8, 0#8] false) := by decide +kernel

/-- V8: nothing is bound. -/
theorem test_flush_unbound :
    let s := ran [0x3100#16] { drawn panelCfg [] with result := 5#16 }
    s.result = 0#16 ∧ s.log = [] := by decide

/-- V8: the second row's send fails and the third row is still sent. -/
theorem test_flushRegion_ignores_failures :
    (ran [0x3200#16, 0#16, 0#16, 2#16, 3#16]
      { drawn panelCfg [(241, 0xF800#16)] with
        bound := true, sendAnswers := [true, true, true, true, true, true, false, true] }).log
      = [.txn .cmd [0x2A#8] true, .txn .data [0#8, 0#8, 0#8, 1#8] true, .txn .cmd [0x2B#8] true,
         .txn .data [0#8, 0#8, 0#8, 2#8] true, .txn .cmd [0x2C#8] true, .txn .data [0#8, 0#8, 0#8, 0#8] true,
         .txn .data [0#8, 0#8, 0xF8#8, 0#8] false, .txn .data [0#8, 0#8, 0#8, 0#8] true] := by decide

/-- V8: one column too many sends nothing. -/
theorem test_flushRegion_rejects :
    (ran [0x3200#16, 200#16, 300#16, 41#16, 20#16] { drawn panelCfg [] with bound := true }).log = [] := by decide

/-- V8. -/
theorem test_panelWritePixel :
    (ran [0x3300#16, 239#16, 319#16, 0xABCD#16] (fresh panelCfg [] (List.replicate 6 true))).log
      = [.txn .cmd [0x2A#8] true, .txn .data [0#8, 0xEF#8, 0#8, 0xEF#8] true, .txn .cmd [0x2B#8] true,
         .txn .data [1#8, 0x3F#8, 1#8, 0x3F#8] true, .txn .cmd [0x2C#8] true, .txn .data [0xAB#8, 0xCD#8] true] := by decide

/-- R40, R214: the pixel's bytes are written at the front of the scratch buffer, whose size stays `2 * max(512, 240)`; with chunks of 2
pixels it is `2 * max(2, 240)`. -/
theorem test_scratch :
    (let s := ran [0x3300#16, 239#16, 319#16, 0xABCD#16] (fresh panelCfg [] (List.replicate 6 true))
     s.scratch.take 2 = [0xAB#8, 0xCD#8] ∧ s.scratch.length = 1024)
      ∧ (fresh (sized d240 d320 d2) [] []).scratch.length = 480 := by decide +kernel

/-- V8: off the panel. -/
theorem test_panelWritePixel_off_panel :
    (ran [0x3300#16, 240#16, 0#16, 9#16] (fresh panelCfg [] [])).log = [] := by decide

/-- V9: the events before the pixel data, and `STATUS`. -/
theorem test_ctrlInit :
    let s := ran [0x4000#16] (fresh (sized d240 d320 big) [] (List.replicate 14 true))
    s.status = 0x0018#16 ∧ s.log.length = 15 ∧ s.log.take 13
      = [.pulse, .txn .cmd [0x11#8] true, .txn .cmd [0x3A#8] true, .txn .data [0x55#8] true, .txn .cmd [0x36#8] true,
         .txn .data [0xC0#8] true, .txn .cmd [0x29#8] true, .txn .cmd [0x21#8] true, .txn .cmd [0x2A#8] true,
         .txn .data [0#8, 0#8, 0#8, 0xEF#8] true, .txn .cmd [0x2B#8] true, .txn .data [0#8, 0#8, 1#8, 0x3F#8] true,
         .txn .cmd [0x2C#8] true] := by decide

/-- V9. -/
theorem test_bindFb :
    (let s := ran [0x4100#16] (fresh panelCfg [] []); s.result = 1#16 ∧ s.status = 0x0004#16)
      ∧ (let s := ran [0x4100#16] { fresh (sized d40 d40 d512) [] [] with result := 7#16 }
         s.result = 0#16 ∧ s.bound = false) := by decide

theorem test_unbindFb : (ran [0x4200#16] { fresh panelCfg [] [] with bound := true }).status = 0x0000#16 := by decide

/-- V9. -/
theorem test_setRotation :
    let s := ran [0x4301#16] (fresh panelCfg [] [true, true])
    s.status = 0x0020#16 ∧ s.log = [.txn .cmd [0x36#8] true, .txn .data [0xA0#8] true] := by decide

/-- V9. -/
theorem test_setInversion :
    (ran [0x4401#16] (fresh panelCfg [] [true])).log = [.txn .cmd [0x21#8] true]
      ∧ (ran [0x4400#16] { fresh panelCfg [] [true] with inv := true }).inv = false
      ∧ (ran [0x4400#16] (fresh panelCfg [] [true])).log = [.txn .cmd [0x20#8] true] := by decide

/-- P4: a halted engine has no step. -/
theorem test_halted_has_no_step :
    step (ran [0x2400#16, 0#16, 0#16, 1#16, 0#16, 1#16, 0x0080#16, 0x0100#16] (drawn panelCfg [])) = .fault .halted := rfl

/-! Witnesses: for each obligation with hypotheses, concrete inputs that meet them together, each clause at a boundary of its range. An
obligation named in no theorem below has no hypothesis on its input. -/

/-- A halted machine. -/
def haltedState : State := { fresh panelCfg [] [] with halted := true, faultCode := 1#8 }

/-- An allocated, bound surface with a red cell; every send of one FLUSH succeeds. -/
def boundState : State :=
  { drawn panelCfg [(1, 0xF800#16)] with bound := true, sendAnswers := List.replicate 155 true }

/-- The states of the witnesses meet the invariant. -/
theorem boundState_inv : boundState.Inv := by constructor <;> decide +kernel

theorem haltedState_inv : haltedState.Inv := by constructor <;> decide +kernel

/-- A pool-backed surface that fills its pool exactly, with a written cell. -/
def poolState : State :=
  { drawn { sized d16 d16 d512 with staticCap := some ⟨256, by decide⟩ } [] with
    fbStatic := true, poolCells := [(255, 7#16)], stream := [0x0100#16] }

theorem poolState_inv : poolState.Inv := by constructor <;> decide +kernel

theorem witness_DecodeOfEncodeIsTheInstruction :
    Instr.wf (.fbDrawString 1#16 2#16 3#16 4#16 [0x41#8, 0#8, 0x42#8]) = true ∧ Instr.wf .flush = true := by decide

theorem witness_DecodedWordsAreTheEncoding :
    decode [0x2200#16, 0#16, 0#16, 0xFFFF#16, 0#16, 1#16, 0xEE41#16, 5#16]
      = .ok (.fbDrawString 0#16 0#16 0xFFFF#16 0#16 [0x41#8]) := rfl

theorem witness_StepRunsTheDecodedInstruction :
    (fresh panelCfg [0x4303#16] []).halted = false
      ∧ decode ((fresh panelCfg [0x4303#16] []).stream.drop (fresh panelCfg [0x4303#16] []).cp.toNat) = .ok (.setRotation 3#2) :=
  ⟨rfl, rfl⟩

/-- Both ends of every reserved range. -/
theorem witness_ReservedOpcodeRaisesIllegalCommand :
    ∀ opc ∈ [0x00, 0x05, 0x0F, 0x15, 0x1F, 0x26, 0x2F, 0x34, 0x3F, 0x45, 0xFF],
      let hdr := BitVec.ofNat 16 (opc * 256 + 0xFF)
      (fresh panelCfg [hdr] []).halted = false ∧ (fresh panelCfg [hdr] []).stream[0]? = some hdr
        ∧ (hdr.toNat / 256 = 0 ∨ (0x05 ≤ hdr.toNat / 256 ∧ hdr.toNat / 256 ≤ 0x0F)
            ∨ (0x15 ≤ hdr.toNat / 256 ∧ hdr.toNat / 256 ≤ 0x1F) ∨ (0x26 ≤ hdr.toNat / 256 ∧ hdr.toNat / 256 ≤ 0x2F)
            ∨ (0x34 ≤ hdr.toNat / 256 ∧ hdr.toNat / 256 ≤ 0x3F) ∨ (0x45 ≤ hdr.toNat / 256 ∧ hdr.toNat / 256 ≤ 0xFF)) := by
  decide +kernel

/-- The least and the greatest illegal `aux` of each rule. -/
theorem witness_IllegalAuxRaisesIllegalCommand :
    ((0x0101#16).toNat / 256 = 0x01 ∧ (0x0101#16).toNat % 256 ≠ 0) ∧ ((0x42FF#16).toNat / 256 = 0x42 ∧ (0x42FF#16).toNat % 256 ≠ 0)
      ∧ (0x01 ∈ [0x01, 0x02, 0x03, 0x04, 0x10, 0x11, 0x12, 0x13, 0x14, 0x20, 0x22, 0x24, 0x30, 0x31, 0x32, 0x33, 0x40, 0x41, 0x42])
      ∧ (0x42 ∈ [0x01, 0x02, 0x03, 0x04, 0x10, 0x11, 0x12, 0x13, 0x14, 0x20, 0x22, 0x24, 0x30, 0x31, 0x32, 0x33, 0x40, 0x41, 0x42])
      ∧ ((0x4304#16).toNat / 256 = 0x43 ∧ 3 < (0x4304#16).toNat % 256) ∧ ((0x4402#16).toNat / 256 = 0x44 ∧ 1 < (0x4402#16).toNat % 256)
      ∧ (fresh panelCfg [0x4304#16] []).halted = false ∧ (fresh panelCfg [0x4304#16] []).stream[0]? = some 0x4304#16 := by
  refine ⟨by decide, by decide, by simp, by simp, by decide, by decide, rfl, rfl⟩

theorem witness_OnlyPackHasReservedOperandBits :
    (let s := fresh panelCfg [0x3000#16, 0x0100#16, 0#16, 0#16] []
     s.halted = false ∧ s.stream.drop s.cp.toNat = [0x3000#16, 0x0100#16, 0#16, 0#16] ∧ 256 ≤ (0x0100#16).toNat)
      ∧ (0x00FF#16).toNat < 256
      ∧ (0x3100#16).toNat / 256 ≠ 0x30 := by decide

theorem witness_ShortStreamsHaveNoStep :
    ((fresh panelCfg [] []).halted = false ∧ (fresh panelCfg [] []).cp.toNat = (fresh panelCfg [] []).stream.length)
      ∧ (let s := fresh panelCfg [0x0300#16, 1#16, 2#16] []
         let i := Instr.fbSetPixel 1#16 2#16 3#16
         s.halted = false ∧ i.wf = true ∧ 3 < i.words ∧ s.stream.drop s.cp.toNat = (encodePadded 0#8 i).take 3
          ∧ s.stream.length + (i.words - 3) < 2 ^ 32)
      ∧ haltedState.halted = true := by decide

theorem witness_HaltedEngineHasNoStep : haltedState.halted = true := rfl

/-- A step that runs its command, and a step that takes a fault: for CommandPointerMovesByPacketLength,
FaultRegistersChangeOnlyAtFaultEntry and StepKeepsParametersStreamAndTransferFlag. -/
theorem witness_steps :
    step (fresh panelCfg [0x4200#16] []) = .next { fresh panelCfg [0x4200#16] [] with cp := 1#32 }
      ∧ step (fresh panelCfg [0x0000#16] [])
        = .next { fresh panelCfg [0x0000#16] [] with faultCode := 1#8, faultCp := 0#32, halted := true } := ⟨rfl, rfl⟩

/-- A state that meets the invariant, and its step. -/
theorem witness_StepKeepsTheInvariant :
    poolState.Inv ∧ step poolState = .next { poolState with poolCells := [], result := 1#16, cp := 1#32 } :=
  ⟨poolState_inv, nextIs_eq (by decide +kernel)⟩

theorem witness_LogGrowsByTheDrawnAnswers :
    step (fresh panelCfg [0x4401#16] [false])
      = .next { fresh panelCfg [0x4401#16] [false] with
          inv := true, log := [.txn .cmd [0x21#8] false], sendAnswers := [], sendDraws := 1, cp := 1#32 } := rfl

theorem witness_OnlyUtf8CommandsRaise :
    (fresh panelCfg [] []).halted = false
      ∧ exec (.fbDrawStringUtf8 0#16 0#16 0#16 0#16 [0x80#8]) (fresh panelCfg [] [])
        = .next { fresh panelCfg [] [] with faultCode := 2#8, faultCp := 0#32, halted := true } := ⟨rfl, rfl⟩

theorem witness_BlockResetStartsAfresh : decode { haltedState with stream := [0x3100#16] }.stream = .ok .flush := rfl

theorem witness_ResetMeetsTheInvariant : haltedState.stream.length < 2 ^ 32 := by decide

theorem witness_OnlyFiveCommandsWriteResult :
    Instr.opcode .fbRelease ∉ [Opcode.fbInit, .fbGetPixel, .packRgb565, .flush, .bindFb]
      ∧ exec .fbRelease (fresh panelCfg [] []) = .next (fresh panelCfg [] []) := ⟨by decide, rfl⟩

theorem witness_OnlyDrawingCommandsChangeCells :
    exec .unbindFb boundState = .next { boundState with bound := false }
      ∧ Instr.opcode .unbindFb ∈ [Opcode.fbGetPixel, .packRgb565, .flush, .flushRegion, .panelWritePixel, .ctrlInit, .bindFb,
          .unbindFb, .setRotation, .setInversion]
      ∧ exec .fbRelease poolState = .next { poolState with fbAlloc := false, fbStatic := false }
      ∧ Instr.opcode .fbRelease = .fbRelease := ⟨rfl, by decide, rfl, rfl⟩

theorem witness_UnallocatedSurfaceIsANoOp :
    (fresh panelCfg [] []).fbAlloc = false
      ∧ Instr.opcode (.fbSetPixel 0#16 0#16 0#16) = .fbSetPixel
      ∧ Instr.opcode (.fbDrawStringUtf8 0#16 0#16 0#16 0#16 []) = .fbDrawStringUtf8
      ∧ 0x80 ≤ (0x80#8).toNat ∧ (0xBF#8).toNat ≤ 0xBF := by decide

theorem witness_RotationDoesNotReshape :
    Instr.opcode .flush ≠ .setRotation ∧ Instr.opcode .flush ≠ .ctrlInit := by decide

theorem witness_StalePoolIsUnobservable :
    (fresh panelCfg [] []).fbAlloc = false ∧ (fresh panelCfg [] []).fbStatic = false
      ∧ 0 < (fresh panelCfg [] []).cfg.W.val * (fresh panelCfg [] []).cfg.H.val := by decide

/-- A pool of exactly `W * H` cells fits, one cell fewer does not; and both allocator answers. -/
theorem witness_FbInitAllocatesAndClears :
    poolState.fbAlloc = true
      ∧ (∃ cap, poolState.cfg.staticCap = some cap ∧ poolState.cfg.W.val * poolState.cfg.H.val ≤ cap.val)
      ∧ (let s := fresh { sized d16 d16 d512 with staticCap := some ⟨255, by decide⟩ } [] []
         s.fbAlloc = false ∧ fitsPool s.cfg = false
          ∧ { s with allocAnswers := [true] }.allocAnswer = true ∧ { s with allocAnswers := [false] }.allocAnswer = false) :=
  ⟨rfl, ⟨⟨256, by decide⟩, rfl, by decide⟩, by decide⟩

/-- For SetPixelWritesItsCell, SurfaceLaws, LineAndCirclePaintTheirPixels, DrawRectPaintsThePerimeter, FillCirclePaintsTheDisc and
CharPaintsGlyphBits: the canonical form they assume, and the pixels at the surface's last row and column and just past them. -/
theorem witness_canonical_surface :
    boundState.fb.wf = true ∧ poolState.fb.wf = true ∧ boundState.fbAlloc = true
      ∧ (239#16).toNat < boundState.cfg.W.val ∧ (319#16).toNat < boundState.cfg.H.val
      ∧ boundState.cfg.W.val ≤ (240#16).toNat ∧ boundState.cfg.H.val ≤ (320#16).toNat := by decide

/-- SurfaceLaws, law 4: an FB_INIT after FB_RELEASE that returns 1. -/
theorem witness_SurfaceLaws :
    exec .fbRelease poolState = .next { poolState with fbAlloc := false, fbStatic := false }
      ∧ exec .fbInit { poolState with fbAlloc := false, fbStatic := false }
        = .next { poolState with poolCells := [], result := 1#16 } :=
  ⟨nextIs_eq (by decide +kernel), nextIs_eq (by decide +kernel)⟩

theorem witness_LineLaws :
    (linePixels 0 0 5 2)[0]? = some (0, 0) ∧ (linePixels 0 0 5 2)[1]? = some (1, 0) ∧ (2, 1) ∈ linePixels 0 0 5 2 := by decide

/-- One column too many, the last column, and no store. -/
theorem witness_FillRectIsAllOrNothing :
    boundState.cfg.W.val < (231#16).toNat + (10#16).toNat
      ∧ (230#16).toNat + (10#16).toNat ≤ boundState.cfg.W.val ∧ (0#16).toNat + (320#16).toNat ≤ boundState.cfg.H.val
      ∧ (fresh panelCfg [] []).fbAlloc = false := by decide

theorem witness_CircleOutlineLaws :
    ((0 : Int) + 1, (0 : Int) + 0) ∈ circlePixels 0 0 1 ∧ ((10 : Int) + -1, (10 : Int) + 4) ∈ circlePixels 10 10 4 := by decide

theorem witness_DiscCountsAndOutline : ((1 : Int), (2 : Int)) ∈ circlePixels 0 0 2 ∧ ((1 : Int), (2 : Int)) ∉ diskPixels 0 0 2 := by
  decide

/-- The raw scales at and beyond both ends of the clamp, for the statements on glyph and string commands. -/
theorem witness_CharPaintsGlyphBits :
    min (max (0#8).toNat 1) 8 = 1 ∧ min (max (8#8).toNat 1) 8 = 8 ∧ min (max (255#8).toNat 1) 8 = 8 := by decide

/-- Both ends of each byte range. -/
theorem witness_Utf8DecoderForms :
    (0x7F#8).toNat ≤ 0x7F ∧ 0xC2 ≤ (0xC2#8).toNat ∧ (0xDF#8).toNat ≤ 0xDF ∧ 0x80 ≤ (0x80#8).toNat ∧ (0xBF#8).toNat ≤ 0xBF
      ∧ (0xC1#8).toNat ≤ 0xC1 ∧ 0xE0 ≤ (0xE0#8).toNat ∧ (0x7F#8).toNat < 0x80 ∧ 0xBF < (0xC0#8).toNat := by decide

theorem witness_Utf8RoundTrip : ∀ c ∈ [1, 0x7F, 0x80, 0x0410, 0x7FF], 1 ≤ c ∧ c < 0x800 := by decide

/-- A string with no malformed sequence, one whose malformed sequence is reached (its one glyph just fits), and one whose malformed
sequence is not. -/
theorem witness_Utf8StringDrawsOrFaults :
    codePoints true [0xD0#8, 0x90#8, 0x41#8] = [0x0410#16, 0x41#16].map some
      ∧ (codePoints true [0x41#8, 0x80#8] = [0x41#16].map some ++ [none] ∧ [0x41#16].length ≤ glyphRoom 240 232 1)
      ∧ (codePoints true [0x41#8, 0x80#8] = [0x41#16].map some ++ [none] ∧ glyphRoom 240 240 1 < [0x41#16].length) := by decide

theorem witness_AsciiStringsNeedNoUtf8 : ∀ b ∈ [0#8, 0x7F#8], b.toNat < 0x80 := by decide

theorem witness_FlushSendsEveryChunk :
    boundState.bound = true ∧ boundState.fbAlloc = true
      ∧ ∀ j, j < chunkCount boundState.cfg.chunkPixels.val → boundState.sendAnswer (5 + j) = true := by
  refine ⟨rfl, rfl, fun j hj => sendAnswer_queued ?_⟩
  have h : j < 150 := hj
  exact (List.getElem?_replicate (n := 155)).trans (if_pos (by omega))

/-- The first chunk fails; the last one fails. -/
theorem witness_FlushAbortsAtTheFailedChunk :
    (let s := { boundState with sendAnswers := List.replicate 5 false ++ [false] }
     s.bound = true ∧ s.fbAlloc = true ∧ 0 < chunkCount s.cfg.chunkPixels.val ∧ s.sendAnswer (5 + 0) = false)
      ∧ (let s := { boundState with sendAnswers := List.replicate 154 true ++ [false] }
         149 < chunkCount s.cfg.chunkPixels.val ∧ (∀ i, i < 149 → s.sendAnswer (5 + i) = true)
          ∧ s.sendAnswer (5 + 149) = false) := by
  refine ⟨by decide, by decide, fun i hi => sendAnswer_queued ?_, sendAnswer_queued (by decide)⟩
  have h : i < 149 := hi
  exact (List.getElem?_append_left (by simp; omega)).trans ((List.getElem?_replicate (n := 154)).trans (if_pos (by omega)))

theorem witness_FlushNeedsABoundSurface :
    (drawn panelCfg []).bound = false ∧ { fresh panelCfg [] [] with bound := true }.fbAlloc = false := by decide

/-- The panel's last pixel, the whole panel, and one column too many. -/
theorem witness_FlushRegionSendsEachRow :
    boundState.bound = true ∧ boundState.fbAlloc = true
      ∧ (1 ≤ (1#16).toNat ∧ (239#16).toNat + (1#16).toNat ≤ 240 ∧ (319#16).toNat + (1#16).toNat ≤ 320)
      ∧ (1 ≤ (240#16).toNat ∧ 1 ≤ (320#16).toNat ∧ (0#16).toNat + (240#16).toNat ≤ 240 ∧ (0#16).toNat + (320#16).toNat ≤ 320)
      ∧ ¬ ((200#16).toNat + (41#16).toNat ≤ 240) ∧ ¬ (1 ≤ (0#16).toNat) := by decide

theorem witness_PanelWritePixelSendsOnePixel :
    (239#16).toNat < 240 ∧ (319#16).toNat < 320 ∧ 240 ≤ (240#16).toNat ∧ 320 ≤ (320#16).toNat := by decide

theorem witness_DirectAndBufferedPixelAgree :
    boundState.Inv ∧ boundState.bound = true ∧ boundState.fbAlloc = true ∧ (239#16).toNat < 240 ∧ (319#16).toNat < 320
      ∧ ∀ j, j < chunkCount boundState.cfg.chunkPixels.val → boundState.sendAnswer (5 + j) = true :=
  ⟨boundState_inv, rfl, rfl, by decide, by decide, witness_FlushSendsEveryChunk.2.2⟩

/-- One word more than the stream may hold, and the last word it may hold, as lengths; and a supply that is a move of the host. -/
theorem witness_HostSuppliesWithinItsDuty :
    haltedState.Inv ∧ haltedState.stream.length + [0x3100#16].length < 2 ^ 32
      ∧ haltedState.stream.length + (List.replicate (2 ^ 32 - 1) (0#16)).length < 2 ^ 32
      ∧ 2 ^ 32 ≤ haltedState.stream.length + (List.replicate (2 ^ 32) (0#16)).length := by
  refine ⟨haltedState_inv, by decide, ?_, ?_⟩ <;> rw [List.length_replicate] <;> decide

theorem witness_BindNeedsThePanelSize :
    panelCfg.W.val = 240 ∧ panelCfg.H.val = 320 ∧ (sized d16 d320 d512).W.val ≠ 240 ∧ (sized d240 d16 d512).H.val ≠ 320 := by decide

theorem witness_BindingAndLifecycleAreIndependent :
    exec .fbRelease boundState = .next { boundState with fbAlloc := false, dynCells := [] }
      ∧ Instr.opcode .fbRelease ∈ [Opcode.fbInit, .fbRelease]
      ∧ exec .unbindFb boundState = .next { boundState with bound := false }
      ∧ Instr.opcode .unbindFb ∈ [Opcode.bindFb, .unbindFb] := ⟨rfl, by decide, rfl, by decide⟩

end Sys2Proof.Tests
end

section
/-! PROOFS. What the drawing commands do, said once: each paints a list of dots that depends only on the instruction and the
parameters, and may then raise MalformedUtf8. And the case split over instructions that takes all drawing commands as one case. -/

namespace Sys2Proof

/-- Every instruction is a drawing command or one of the twelve others. -/
theorem Instr.drawingCases {P : Instr → Prop}
    (drawing : ∀ i : Instr, i.opcode ∈ Machine.drawingOpcodes → P i)
    (fbInit : P .fbInit) (fbRelease : P .fbRelease) (fbGetPixel : ∀ x y, P (.fbGetPixel x y))
    (packRgb565 : ∀ r g b, P (.packRgb565 r g b)) (flush : P .flush) (flushRegion : ∀ x y w h, P (.flushRegion x y w h))
    (panelWritePixel : ∀ x y c, P (.panelWritePixel x y c)) (ctrlInit : P .ctrlInit) (bindFb : P .bindFb)
    (unbindFb : P .unbindFb) (setRotation : ∀ r, P (.setRotation r)) (setInversion : ∀ v, P (.setInversion v))
    (i : Instr) : P i := by
  cases i with
  | fbInit => exact fbInit
  | fbRelease => exact fbRelease
  | fbGetPixel x y => exact fbGetPixel x y
  | packRgb565 r g b => exact packRgb565 r g b
  | flush => exact flush
  | flushRegion x y w h => exact flushRegion x y w h
  | panelWritePixel x y c => exact panelWritePixel x y c
  | ctrlInit => exact ctrlInit
  | bindFb => exact bindFb
  | unbindFb => exact unbindFb
  | setRotation r => exact setRotation r
  | setInversion v => exact setInversion v
  | _ => exact drawing _ (by simp [Machine.drawingOpcodes, Instr.opcode])

end Sys2Proof

namespace Sys2Proof.Machine

/-- The dots painted, and then MalformedUtf8 raised or not. -/
def State.paintThen (dots : List Dot) (faults : Bool) (s : State) : State :=
  if faults then (s.paint dots).raise .malformedUtf8 else s.paint dots

/-- `f` paints, and then faults or not, with the same dots and the same end from every state with the parameters `cfg`. -/
def Paints (cfg : Config) (f : State → State) : Prop :=
  ∃ dots faults, ∀ s : State, s.cfg = cfg → f s = s.paintThen dots faults

theorem Paints.of_paint {cfg : Config} {f : State → State} {dots : List Dot} (h : ∀ s : State, s.cfg = cfg → f s = s.paint dots) :
    Paints cfg f := ⟨dots, false, h⟩

theorem plot_paints (cfg : Config) (px py : Int) (c : Word) : Paints cfg (State.plot px py c) :=
  .of_paint (dots := [⟨px, py, c⟩]) fun _ _ => rfl

theorem plotAll_paints (cfg : Config) (pixels : List (Int × Int)) (c : Word) : Paints cfg (State.plotAll pixels c) :=
  .of_paint fun _ _ => rfl

theorem blit_paints (cfg : Config) (x y : Nat) (cpt fg bg : Word) (scale : Nat) :
    Paints cfg (State.blit x y cpt fg bg scale) :=
  .of_paint (dots := glyphDots (glyphOf cfg cpt) x y fg bg scale) fun _ hs => by rw [State.blit, hs]

/-- Painting before something that paints. -/
theorem Paints.after_paint {cfg : Config} {f : State → State} (h : Paints cfg f) (k : List Dot) :
    Paints cfg fun s => f (s.paint k) := by
  obtain ⟨dots, faults, h⟩ := h
  refine ⟨k ++ dots, faults, fun s hs => (h _ ((paint_sameButCells k s).cfg.trans hs)).trans ?_⟩
  simp only [State.paintThen, paint_append]

/-- `Text` paints its glyphs in turn; where it ends, and whether it faults there, depends on the string and the width only (R171). -/
theorem textFrom_paints (cfg : Config) (y : Nat) (fg bg : Word) (scale : Nat) (items : List (Option Word)) (cx : Nat) :
    Paints cfg (State.textFrom y fg bg scale items cx) := by
  induction items generalizing cx with
  | nil => exact ⟨[], false, fun _ _ => rfl⟩
  | cons item rest ih =>
    cases item with
    | none => exact ⟨[], true, fun _ _ => rfl⟩
    | some cpt =>
      by_cases hw : cfg.W.val < cx + 8 * scale
      · exact ⟨[], false, fun s hs => by simp [State.textFrom, hs, hw, State.paintThen, State.paint]⟩
      · obtain ⟨dots, faults, h⟩ := (ih (cx + 8 * scale)).after_paint (glyphDots (glyphOf cfg cpt) cx y fg bg scale)
        exact ⟨dots, faults, fun s hs => by simpa [State.textFrom, hs, hw, State.blit] using h s hs⟩

/-- A plot inside an allocated surface is a write of the pixel's cell (R113). -/
theorem plot_of_inside {s : State} {x y : Nat} (ha : s.fbAlloc = true) (hx : x < s.cfg.W.val) (hy : y < s.cfg.H.val) (c : Word) :
    s.plot x y c = s.memWrite (cellAddr s.cfg x y) c := by
  simp [State.plot, ha, cellOf_natCast, hx, hy]

/-- Filling the cells of pixels inside an allocated surface is plotting the pixels. -/
theorem memFill_eq_plotAll {s : State} (ha : s.fbAlloc = true) (c : Word) (pixels : List (Nat × Nat))
    (hp : ∀ p ∈ pixels, p.1 < s.cfg.W.val ∧ p.2 < s.cfg.H.val) :
    s.memFill (pixels.map fun p => cellAddr s.cfg p.1 p.2) c = s.plotAll (pixels.map fun p => ((p.1 : Int), (p.2 : Int))) c := by
  induction pixels generalizing s with
  | nil => rfl
  | cons p l ih =>
    obtain ⟨hx, hy⟩ := hp p (by simp)
    calc s.memFill ((p :: l).map fun p => cellAddr s.cfg p.1 p.2) c
      _ = (s.memWrite (cellAddr s.cfg p.1 p.2) c).memFill (l.map fun p => cellAddr s.cfg p.1 p.2) c := rfl
      _ = (s.memWrite (cellAddr s.cfg p.1 p.2) c).plotAll (l.map fun p => ((p.1 : Int), (p.2 : Int))) c :=
        ih (s := s.memWrite (cellAddr s.cfg p.1 p.2) c) ha fun q hq => hp q (by simp [hq])
      _ = (s.plot p.1 p.2 c).plotAll (l.map fun p => ((p.1 : Int), (p.2 : Int))) c := by rw [plot_of_inside ha hx hy]

/-- The pixels of `[x, x+w) x [y, y+h)`, row by row (R134). -/
def rectInside (x y w h : Nat) : List (Nat × Nat) :=
  (List.range h).flatMap fun j => (List.range w).map fun i => (x + i, y + j)

theorem rectCells_eq_map (cfg : Config) (x y w h : Nat) :
    rectCells cfg x y w h = (rectInside x y w h).map fun p => cellAddr cfg p.1 p.2 := by
  simp [rectCells, rectInside, List.map_flatMap, Function.comp_def]

/-- FB_FILL_RECT paints the whole rectangle, or nothing where it does not fit (R134). -/
theorem fillRect_paints (cfg : Config) (x y w h : Nat) (c : Word) :
    Paints cfg fun s => s.memFill (s.fillRectCells x y w h) c := by
  by_cases hfit : cfg.W.val < x + w ∨ cfg.H.val < y + h
  · exact .of_paint (dots := []) fun s hs => by simp [State.fillRectCells, hs, hfit, State.memFill, State.paint]
  refine .of_paint (dots := dotsOf ((rectInside x y w h).map fun p => ((p.1 : Int), (p.2 : Int))) c) fun s hs => ?_
  subst hs
  cases ha : s.fbAlloc with
  | false => simp [paint_unallocated _ ha, State.fillRectCells, ha, State.memFill]
  | true =>
    rw [show s.fillRectCells x y w h = rectCells s.cfg x y w h by simp [State.fillRectCells, ha, hfit], rectCells_eq_map]
    refine memFill_eq_plotAll ha c _ fun p hp => ?_
    simp only [rectInside, List.mem_flatMap, List.mem_map, List.mem_range] at hp
    obtain ⟨j, hj, i, hi, rfl⟩ := hp
    simp only
    omega

/-- Every drawing command paints (R113, R130, R134, R164, R171). -/
theorem drawing_paints (cfg : Config) {i : Instr} (hi : i.opcode ∈ drawingOpcodes) :
    ∃ f, Paints cfg f ∧ ∀ s, exec i s = .next (f s) := by
  cases i with
  | fbSetPixel => exact ⟨_, plot_paints .., fun _ => rfl⟩
  | fbDrawLine => exact ⟨_, plotAll_paints .., fun _ => rfl⟩
  | fbDrawRect => exact ⟨_, plotAll_paints .., fun _ => rfl⟩
  | fbFillRect => exact ⟨_, fillRect_paints .., fun _ => rfl⟩
  | fbDrawCircle => exact ⟨_, plotAll_paints .., fun _ => rfl⟩
  | fbFillCircle => exact ⟨_, plotAll_paints .., fun _ => rfl⟩
  | fbDrawChar => exact ⟨_, blit_paints .., fun _ => rfl⟩
  | fbDrawCharScaled => exact ⟨_, blit_paints .., fun _ => rfl⟩
  | fbDrawString => exact ⟨_, textFrom_paints .., fun _ => rfl⟩
  | fbDrawStringScaled => exact ⟨_, textFrom_paints .., fun _ => rfl⟩
  | fbDrawStringUtf8 => exact ⟨_, textFrom_paints .., fun _ => rfl⟩
  | fbDrawStringUtf8Scaled => exact ⟨_, textFrom_paints .., fun _ => rfl⟩
  | _ => simp [drawingOpcodes, Instr.opcode] at hi

/-- A drawing command's outcome: the same dots and the same end from every state with the same parameters. -/
theorem exec_drawing (cfg : Config) {i : Instr} (hi : i.opcode ∈ drawingOpcodes) :
    ∃ dots faults, ∀ s : State, s.cfg = cfg → exec i s = .next (s.paintThen dots faults) := by
  obtain ⟨f, ⟨dots, faults, hf⟩, he⟩ := drawing_paints cfg hi
  exact ⟨dots, faults, fun s hs => (he s).trans (congrArg _ (hf s hs))⟩

end Sys2Proof.Machine
end

section
/-! PROOFS. What every command leaves of the engine's own registers and of what the host gives (`exec_engineFrame`), and what it logs
(`exec_sent`); the whole-machine statements about a step follow. -/

namespace Sys2Proof.Machine

/-- What a command leaves: the parameters, the stream, `xfer_busy` and `cp`, and also the fault registers, unless it takes
MalformedUtf8 at `cp` (R31, R34, R41, R48, R62, R174). -/
structure EngineFrame (s t : State) : Prop where
  cfg : t.cfg = s.cfg
  stream : t.stream = s.stream
  xferBusy : t.xferBusy = s.xferBusy
  cp : t.cp = s.cp
  fault : (t.halted = s.halted ∧ t.faultCode = s.faultCode ∧ t.faultCp = s.faultCp)
    ∨ (t.halted = true ∧ t.faultCode = 2#8 ∧ t.faultCp = s.cp)

theorem EngineFrame.refl (s : State) : EngineFrame s s := ⟨rfl, rfl, rfl, rfl, .inl ⟨rfl, rfl, rfl⟩⟩

theorem SameButCells.engineFrame {s t : State} (h : SameButCells s t) : EngineFrame s t := by
  rw [h.1]
  exact { EngineFrame.refl s with }

theorem SameButResult.engineFrame {s t : State} (h : SameButResult s t) : EngineFrame s t := by
  rw [h]
  exact { EngineFrame.refl s with }

theorem SameButLink.engineFrame {s t : State} (h : SameButLink s t) : EngineFrame s t := by
  rw [h]
  exact { EngineFrame.refl s with }

/-- The UTF-8 fault after cell writes (R174). -/
theorem EngineFrame.of_raise {s u : State} (h : EngineFrame s u) : EngineFrame s (u.raise .malformedUtf8) :=
  { h with fault := .inr ⟨rfl, rfl, h.cp⟩ }

/-- FB_INIT changes the surface's state, RESULT and the allocator's draws only (R110). -/
theorem initSurface_engineFrame (s : State) : EngineFrame s s.initSurface := by
  rcases initSurface_cases s with ⟨-, h⟩ | ⟨-, -, h⟩ | ⟨-, -, -, h⟩ | ⟨-, -, -, h⟩ <;> rw [h] <;>
    exact { EngineFrame.refl s with }

/-- Every command keeps the engine's frame. -/
theorem exec_engineFrame {i : Instr} {s t : State} (h : exec i s = .next t) : EngineFrame s t := by
  rcases exec_effect h with ⟨-, rfl⟩ | ⟨-, rfl⟩ | ⟨-, hcells⟩ | ⟨-, u, hcells, rfl⟩ | ⟨-, hresult⟩ | ⟨-, -, v, hlink⟩
    | ⟨-, hlink⟩ | ⟨-, -, hlink⟩ | ⟨-, ⟨-, rfl⟩ | ⟨-, rfl⟩⟩ | ⟨-, rfl⟩ | ⟨-, r, hlink⟩ | ⟨-, v, hlink⟩
  · exact initSurface_engineFrame s
  · exact { EngineFrame.refl s with }
  · exact hcells.engineFrame
  · exact hcells.engineFrame.of_raise
  · exact hresult.engineFrame
  · exact { hlink.engineFrame with }
  · exact hlink.engineFrame
  · exact { hlink.engineFrame with }
  · exact { EngineFrame.refl s with }
  · exact { EngineFrame.refl s with }
  · exact { EngineFrame.refl s with }
  · exact { hlink.engineFrame with }
  · exact { hlink.engineFrame with }

/-! The log. -/

theorem SameButCells.sent {s t : State} (h : SameButCells s t) : Sent s t [] := by
  rw [h.1]
  exact Sent.nil rfl rfl rfl

/-- Drawing logs nothing, whether it faults or not. -/
theorem paintThen_sent (dots : List Dot) (faults : Bool) (s : State) : Sent s (s.paintThen dots faults) [] := by
  have h := (paint_sameButCells dots s).sent
  cases faults with
  | false => exact h
  | true => exact { h with }

theorem initSurface_sent (s : State) : Sent s s.initSurface [] := by
  rcases initSurface_cases s with ⟨-, h⟩ | ⟨-, -, h⟩ | ⟨-, -, -, h⟩ | ⟨-, -, -, h⟩ <;> rw [h] <;> exact Sent.nil rfl rfl rfl

theorem flushFrame_sent (s : State) : ∃ sends, Sent s s.flushFrame sends := by
  unfold State.flushFrame
  split
  · exact ⟨[], Sent.nil rfl rfl rfl⟩
  · obtain ⟨-, n, h⟩ := flushChunks_spec (SameButLink.refl (s.openWindow 0 0 (panelW - 1) (panelH - 1)))
      (frameChunks s.cfg.chunkPixels.val)
    exact ⟨_, (openWindow_sent ..).trans h⟩

theorem flushRect_sent (x y w h : Nat) (s : State) : ∃ sends, Sent s (s.flushRect x y w h) sends := by
  unfold State.flushRect
  split
  · exact ⟨[], Sent.nil rfl rfl rfl⟩
  · split
    · exact ⟨_, (openWindow_sent ..).trans (flushRows_sent ..)⟩
    · exact ⟨[], Sent.nil rfl rfl rfl⟩

theorem panelPixel_sent (x y : Nat) (c : Word) (s : State) : ∃ sends, Sent s (s.panelPixel x y c) sends := by
  unfold State.panelPixel
  split
  · exact ⟨[], Sent.nil rfl rfl rfl⟩
  · exact ⟨_, (openWindow_sent ..).trans (sendPixels_sent ..)⟩

/-- CTRL_INIT sends after its one reset pulse (R230). -/
theorem initController_sent (s : State) : ∃ sends, Sent s.pulse s.initController sends := by
  have hinit := sendAll_sent (initSends s.cfg) s.pulse
  have hregs : Sent s.pulse (((s.pulse.sendAll (initSends s.cfg)).setRot 0#2).setInv true) (initSends s.cfg) := { hinit with }
  exact ⟨_, { hregs.trans (clearPanel_sent _) with }⟩

/-- What a command logs: a reset pulse or none, and then its transactions, each with the answer drawn for it. -/
theorem exec_sent {i : Instr} {s t : State} (h : exec i s = .next t) :
    ∃ sends, Sent s t sends ∨ Sent s.pulse t sends := by
  have plain : (∃ sends, Sent s t sends) → ∃ sends, Sent s t sends ∨ Sent s.pulse t sends := fun ⟨l, hl⟩ => ⟨l, .inl hl⟩
  cases i using Instr.drawingCases with
  | drawing i hi =>
    obtain ⟨dots, faults, he⟩ := exec_drawing s.cfg hi
    cases (he s rfl).symm.trans h
    exact ⟨_, .inl (paintThen_sent ..)⟩
  | fbInit => cases h; exact ⟨_, .inl (initSurface_sent s)⟩
  | flush => cases h; exact plain (flushFrame_sent s)
  | flushRegion x y w h => cases h; exact plain (flushRect_sent ..)
  | panelWritePixel x y c => cases h; exact plain (panelPixel_sent ..)
  | ctrlInit =>
    cases h
    obtain ⟨sends, hs⟩ := initController_sent s
    exact ⟨sends, .inr hs⟩
  | setRotation r => cases h; exact ⟨_, .inl { sendAll_sent _ (s.setRot r) with }⟩
  | setInversion v => cases h; exact ⟨_, .inl { send_sent _ _ (s.setInv v) with }⟩
  | bindFb =>
    cases h
    refine ⟨[], .inl ?_⟩
    split <;> exact Sent.nil rfl rfl rfl
  | fbRelease => cases h; exact ⟨[], .inl (Sent.nil rfl rfl rfl)⟩
  | fbGetPixel => cases h; exact ⟨[], .inl (Sent.nil rfl rfl rfl)⟩
  | packRgb565 => cases h; exact ⟨[], .inl (Sent.nil rfl rfl rfl)⟩
  | unbindFb => cases h; exact ⟨[], .inl (Sent.nil rfl rfl rfl)⟩

/-- Every event of `txns` is a transaction. -/
theorem filter_txns {p : Event → Bool} (hp : ∀ kind bytes ok, p (.txn kind bytes ok) = true) (s : State) (n : Nat)
    (l : List (TxnKind × List Byte)) : (s.txns n l).filter p = s.txns n l := by
  induction l generalizing n with
  | nil => rfl
  | cons q l ih => rw [State.txns, List.filter_cons_of_pos (hp ..), ih]

theorem txns_pulse (s : State) (n : Nat) (l : List (TxnKind × List Byte)) : s.pulse.txns n l = s.txns n l := by
  simpa using txns_shift (s := s) (t := s.pulse) (d := 0) (by simp [State.sendAnswer]) n l

/-- A command outside the five of R32 leaves RESULT. -/
theorem exec_result {i : Instr} {s t : State} (h : exec i s = .next t)
    (hi : i.opcode ∉ [Opcode.fbInit, .fbGetPixel, .packRgb565, .flush, .bindFb]) : t.result = s.result := by
  rcases exec_effect h with ⟨ho, -⟩ | ⟨-, rfl⟩ | ⟨-, hcells⟩ | ⟨-, u, hcells, rfl⟩ | ⟨ho, -⟩ | ⟨ho, -⟩
    | ⟨-, hlink⟩ | ⟨-, -, hlink⟩ | ⟨ho, -⟩ | ⟨-, rfl⟩ | ⟨-, r, hlink⟩ | ⟨-, v, hlink⟩
  · simp [ho] at hi
  · rfl
  · rw [hcells.1]
  · show u.result = s.result
    rw [hcells.1]
  · rcases ho with ho | ho <;> simp [ho] at hi
  · simp [ho] at hi
  · rw [hlink]
  · rw [hlink]; rfl
  · simp [ho] at hi
  · rfl
  · rw [hlink]; rfl
  · rw [hlink]; rfl

/-! Steps. -/

/-- What a step leaves, whether it faults or not. -/
theorem step_hostInputs {s t : State} (h : step s = .next t) :
    t.cfg = s.cfg ∧ t.stream = s.stream ∧ t.xferBusy = s.xferBusy := by
  obtain ⟨-, -, ⟨-, rfl⟩ | ⟨i, u, -, -, hu, rfl⟩⟩ := step_effect h
  · exact ⟨rfl, rfl, rfl⟩
  · have hf := exec_engineFrame hu
    exact ⟨hf.cfg, hf.stream, hf.xferBusy⟩

/-- A step either runs a command to its end and goes past its packet, or halts with a fault recorded at `cp` (R31, R94, R251). -/
theorem step_engine {s t : State} (h : step s = .next t) :
    (t.halted = false ∧ t.faultCode = s.faultCode ∧ t.faultCp = s.faultCp
        ∧ ∃ i, decode (s.stream.drop s.cp.toNat) = .ok i ∧ t.cp = s.cp + BitVec.ofNat 32 i.words)
      ∨ (t.halted = true ∧ (t.faultCode = 1#8 ∨ t.faultCode = 2#8) ∧ t.faultCp = s.cp ∧ t.cp = s.cp) := by
  obtain ⟨hrun, -, ⟨-, rfl⟩ | ⟨i, u, -, hd, hu, rfl⟩⟩ := step_effect h
  · exact .inr ⟨rfl, .inl rfl, rfl, rfl⟩
  have hf := exec_engineFrame hu
  rcases hf.fault with ⟨hh, hcode, hcp⟩ | ⟨hh, hcode, hcp⟩
  · refine .inl ⟨hh.trans hrun, hcode, hcp, i, hd, ?_⟩
    rw [retire_of_running _ (hh.trans hrun)]
    exact congrArg (· + _) hf.cp
  · rw [retire_of_halted _ hh]
    exact .inr ⟨hh, .inr hcode, hcp, hf.cp⟩

end Sys2Proof.Machine

open Sys2Proof Sys2Proof.Machine

/-- Settles O10: the two ends of a step. -/
theorem commandPointerMovesByPacketLength : Obligations.CommandPointerMovesByPacketLength := by
  intro s t h
  rcases step_engine h with ⟨hh, -, -, hcp⟩ | ⟨hh, -, -, hcp⟩
  · exact .inl ⟨hh, hcp⟩
  · exact .inr ⟨hh, hcp⟩

/-- Settles O11: the two ends of a step. -/
theorem faultRegistersChangeOnlyAtFaultEntry : Obligations.FaultRegistersChangeOnlyAtFaultEntry := by
  intro s t h
  rcases step_engine h with ⟨hh, hcode, hcp, -⟩ | ⟨hh, hcode, hcp, -⟩
  · exact .inl ⟨hh, hcode, hcp⟩
  · exact .inr ⟨hh, hcode, hcp⟩

/-- Settles O17: every command's frame. -/
theorem stepKeepsParametersStreamAndTransferFlag : Obligations.StepKeepsParametersStreamAndTransferFlag :=
  fun _ _ => step_hostInputs

/-- Settles O18: a step that faults on an illegal packet logs nothing, and one that runs a command logs what the command sent, after a
reset pulse where there is one. -/
theorem logGrowsByTheDrawnAnswers : Obligations.LogGrowsByTheDrawnAnswers := by
  intro s t h
  obtain ⟨-, -, ⟨-, rfl⟩ | ⟨i, u, -, -, hu, rfl⟩⟩ := step_effect h
  · exact ⟨[], [], by simp, rfl, rfl, rfl⟩
  obtain ⟨sends, hs | hs⟩ := exec_sent hu
  · exact ⟨s.txns 0 sends, sends, hs.log, filter_txns (fun _ _ _ => rfl) .., hs.draws, hs.answers⟩
  · refine ⟨.pulse :: s.txns 0 sends, sends, ?_, ?_, hs.draws, hs.answers⟩
    · simpa [txns_pulse] using hs.log
    · rw [List.filter_cons_of_neg (by simp)]
      exact filter_txns (fun _ _ _ => rfl) ..

/-- Settles O19: by what each kind of command changes. -/
theorem onlyFiveCommandsWriteResult : Obligations.OnlyFiveCommandsWriteResult :=
  fun _ _ _ hi h => exec_result h hi
end

section
/-! PROOFS. Noninterference, said once for any part of the state that no command looks at: `Unseen R` says what a relation between two
states needs so that the commands keep it (`Unseen.exec`). R40's scratch buffer and R38's stale pool are two such parts. -/

namespace Sys2Proof.Machine

/-- The states `R` relates look alike to every command but FB_INIT, and the operations those commands are made of keep `R`. -/
structure Unseen (R : State → State → Prop) : Prop where
  cfg : ∀ {s t}, R s t → t.cfg = s.cfg
  bound : ∀ {s t}, R s t → t.bound = s.bound
  fbAlloc : ∀ {s t}, R s t → t.fbAlloc = s.fbAlloc
  sendAnswer : ∀ {s t}, R s t → t.sendAnswer 0 = s.sendAnswer 0
  memRead : ∀ {s t}, R s t → ∀ a, t.memRead a = s.memRead a
  memWrite : ∀ {s t}, R s t → ∀ a v, R (s.memWrite a v) (t.memWrite a v)
  send : ∀ {s t}, R s t → ∀ kind bytes, R (s.send kind bytes) (t.send kind bytes)
  sendPixels : ∀ {s t}, R s t → ∀ bytes, R (s.sendPixels bytes) (t.sendPixels bytes)
  pulse : ∀ {s t}, R s t → R s.pulse t.pulse
  setResult : ∀ {s t}, R s t → ∀ v, R (s.setResult v) (t.setResult v)
  setBound : ∀ {s t}, R s t → ∀ v, R (s.setBound v) (t.setBound v)
  setRot : ∀ {s t}, R s t → ∀ v, R (s.setRot v) (t.setRot v)
  setInv : ∀ {s t}, R s t → ∀ v, R (s.setInv v) (t.setInv v)
  setReady : ∀ {s t}, R s t → ∀ v, R (s.setReady v) (t.setReady v)
  dropStore : ∀ {s t}, R s t → R s.dropStore t.dropStore
  raise : ∀ {s t}, R s t → ∀ f, R (s.raise f) (t.raise f)

namespace Unseen

variable {R : State → State → Prop} {s t : State}

theorem foldl {α : Type} {f : State → α → State} (hf : ∀ {s t}, R s t → ∀ a, R (f s a) (f t a)) (h : R s t) (l : List α) :
    R (l.foldl f s) (l.foldl f t) := by
  induction l generalizing s t with
  | nil => exact h
  | cons a l ih => exact ih (hf h a)

theorem cellRun (U : Unseen R) (h : R s t) (k m : Nat) : t.cellRun k m = s.cellRun k m := by
  simp only [State.cellRun, U.memRead h]

theorem plot (U : Unseen R) (h : R s t) (px py : Int) (c : Word) : R (s.plot px py c) (t.plot px py c) := by
  unfold State.plot
  rw [U.fbAlloc h, U.cfg h]
  split
  · split
    · exact U.memWrite h _ _
    · exact h
  · exact h

theorem paintThen (U : Unseen R) (h : R s t) (dots : List Dot) (faults : Bool) :
    R (s.paintThen dots faults) (t.paintThen dots faults) := by
  have hp : R (s.paint dots) (t.paint dots) :=
    foldl (R := R) (f := fun u (d : Dot) => u.plot d.x d.y d.c) (fun h _ => U.plot h ..) h dots
  cases faults with
  | false => exact hp
  | true => exact U.raise hp _

theorem sendAll (U : Unseen R) (h : R s t) (sends : List (TxnKind × List Byte)) : R (s.sendAll sends) (t.sendAll sends) :=
  foldl (R := R) (f := fun u (p : TxnKind × List Byte) => u.send p.1 p.2) (fun h _ => U.send h ..) h sends

theorem openWindow (U : Unseen R) (h : R s t) (x0 y0 x1 y1 : Nat) : R (s.openWindow x0 y0 x1 y1) (t.openWindow x0 y0 x1 y1) := by
  unfold State.openWindow
  rw [U.cfg h]
  exact U.sendAll h _

theorem flushChunks (U : Unseen R) (h : R s t) (l : List (Nat × Nat)) : R (s.flushChunks l) (t.flushChunks l) := by
  induction l generalizing s t with
  | nil => exact U.setResult h _
  | cons km l ih =>
    obtain ⟨k, m⟩ := km
    unfold State.flushChunks
    rw [U.sendAnswer h, U.cellRun h]
    split
    · exact ih (U.sendPixels h _)
    · exact U.setResult (U.sendPixels h _) _

theorem flushFrame (U : Unseen R) (h : R s t) : R s.flushFrame t.flushFrame := by
  unfold State.flushFrame
  rw [U.bound h, U.fbAlloc h, U.cfg h]
  split
  · exact U.setResult h _
  · exact U.flushChunks (U.openWindow h ..) _

theorem flushRect (U : Unseen R) (h : R s t) (x y w n : Nat) : R (s.flushRect x y w n) (t.flushRect x y w n) := by
  unfold State.flushRect
  rw [U.bound h, U.fbAlloc h]
  split
  · exact h
  · split
    · refine foldl (R := R) (fun h rr => ?_) (U.openWindow h ..) _
      rw [U.cellRun h]
      exact U.sendPixels h _
    · exact h

theorem panelPixel (U : Unseen R) (h : R s t) (x y : Nat) (c : Word) : R (s.panelPixel x y c) (t.panelPixel x y c) := by
  unfold State.panelPixel
  split
  · exact h
  · exact U.sendPixels (U.openWindow h ..) _

theorem clearPanel (U : Unseen R) (h : R s t) : R s.clearPanel t.clearPanel := by
  unfold State.clearPanel
  rw [U.cfg h]
  exact foldl (R := R) (f := fun u (km : Nat × Nat) => u.sendPixels (List.replicate (2 * km.2) 0#8)) (fun h km => U.sendPixels h _)
    (U.openWindow h ..) _

theorem initController (U : Unseen R) (h : R s t) : R s.initController t.initController := by
  unfold State.initController
  rw [U.cfg h]
  exact U.setReady (U.clearPanel (U.setInv (U.setRot (U.sendAll (U.pulse h) _) _) _)) _

theorem getPixel (U : Unseen R) (h : R s t) (x y : Nat) : t.getPixel x y = s.getPixel x y := by
  simp only [State.getPixel, U.fbAlloc h, U.cfg h, U.memRead h]

/-- Every command but FB_INIT keeps the relation. -/
theorem exec (U : Unseen R) (h : R s t) {i : Instr} (hi : i ≠ .fbInit) :
    ∃ s' t', exec i s = .next s' ∧ exec i t = .next t' ∧ R s' t' := by
  cases i using Instr.drawingCases with
  | drawing i hi =>
    obtain ⟨dots, faults, he⟩ := exec_drawing s.cfg hi
    exact ⟨_, _, he s rfl, he t (U.cfg h), U.paintThen h dots faults⟩
  | fbInit => exact absurd rfl hi
  | fbRelease => exact ⟨_, _, rfl, rfl, U.dropStore h⟩
  | fbGetPixel x y =>
    refine ⟨_, _, rfl, rfl, ?_⟩
    rw [U.getPixel h]
    exact U.setResult h _
  | packRgb565 r g b => exact ⟨_, _, rfl, rfl, U.setResult h _⟩
  | flush => exact ⟨_, _, rfl, rfl, U.flushFrame h⟩
  | flushRegion x y w n => exact ⟨_, _, rfl, rfl, U.flushRect h ..⟩
  | panelWritePixel x y c => exact ⟨_, _, rfl, rfl, U.panelPixel h ..⟩
  | ctrlInit => exact ⟨_, _, rfl, rfl, U.initController h⟩
  | bindFb =>
    refine ⟨_, _, rfl, rfl, ?_⟩
    rw [U.cfg h]
    split
    · exact U.setResult (U.setBound h _) _
    · exact U.setResult h _
  | unbindFb => exact ⟨_, _, rfl, rfl, U.setBound h _⟩
  | setRotation r =>
    refine ⟨_, _, rfl, rfl, ?_⟩
    rw [U.cfg h]
    exact U.sendAll (U.setRot h _) _
  | setInversion v =>
    refine ⟨_, _, rfl, rfl, ?_⟩
    rw [U.cfg h]
    exact U.send (U.setInv h _) ..

end Unseen

/-! Scratch (R40). -/

/-- `t` differs from `s` at most in `scratch`. -/
def SameButScratch (s t : State) : Prop := ∃ b, t = { s with scratch := b }

/-- No command looks at `scratch`: a transaction takes from it only the bytes that were just put there. -/
theorem unseen_scratch : Unseen SameButScratch where
  cfg := by rintro _ _ ⟨_, rfl⟩; rfl
  bound := by rintro _ _ ⟨_, rfl⟩; rfl
  fbAlloc := by rintro _ _ ⟨_, rfl⟩; rfl
  sendAnswer := by rintro _ _ ⟨_, rfl⟩; rfl
  memRead := by rintro _ _ ⟨_, rfl⟩ _; rfl
  memWrite := by rintro _ _ ⟨b, rfl⟩ _ _; exact ⟨b, rfl⟩
  send := by rintro _ _ ⟨b, rfl⟩ _ _; exact ⟨b, rfl⟩
  sendPixels := by
    rintro _ _ ⟨b, rfl⟩ bytes
    exact ⟨bytes ++ b.drop bytes.length, by simp [State.sendPixels, State.send, State.writeScratch, State.sendAnswer]⟩
  pulse := by rintro _ _ ⟨b, rfl⟩; exact ⟨b, rfl⟩
  setResult := by rintro _ _ ⟨b, rfl⟩ _; exact ⟨b, rfl⟩
  setBound := by rintro _ _ ⟨b, rfl⟩ _; exact ⟨b, rfl⟩
  setRot := by rintro _ _ ⟨b, rfl⟩ _; exact ⟨b, rfl⟩
  setInv := by rintro _ _ ⟨b, rfl⟩ _; exact ⟨b, rfl⟩
  setReady := by rintro _ _ ⟨b, rfl⟩ _; exact ⟨b, rfl⟩
  dropStore := by rintro _ _ ⟨b, rfl⟩; exact ⟨b, rfl⟩
  raise := by rintro _ _ ⟨b, rfl⟩ _; exact ⟨b, rfl⟩

/-- FB_INIT does not look at `scratch` either. -/
theorem initSurface_withScratch (s : State) (b : List Byte) :
    { s with scratch := b }.initSurface = { s.initSurface with scratch := b } := by
  have hans : { s with scratch := b }.allocAnswer = s.allocAnswer := rfl
  simp only [State.initSurface, hans]
  repeat' split
  all_goals rfl

/-! The pool while no surface uses it (R38). -/

/-- Neither state's surface is in the pool, and they differ at most in the pool's contents. -/
def SameButIdlePool (s t : State) : Prop := s.fbStatic = false ∧ ∃ p, t = { s with poolCells := p }

/-- No command but FB_INIT looks at a pool that holds no surface. -/
theorem unseen_idlePool : Unseen SameButIdlePool where
  cfg := by rintro _ _ ⟨_, _, rfl⟩; rfl
  bound := by rintro _ _ ⟨_, _, rfl⟩; rfl
  fbAlloc := by rintro _ _ ⟨_, _, rfl⟩; rfl
  sendAnswer := by rintro _ _ ⟨_, _, rfl⟩; rfl
  memRead := by rintro _ _ ⟨hs, _, rfl⟩ _; simp [State.memRead, State.fb, hs]
  memWrite := by rintro _ _ ⟨hs, p, rfl⟩ _ _; exact ⟨hs, p, by simp [State.memWrite, hs]⟩
  send := by rintro _ _ ⟨hs, p, rfl⟩ _ _; exact ⟨hs, p, rfl⟩
  sendPixels := by rintro _ _ ⟨hs, p, rfl⟩ _; exact ⟨hs, p, rfl⟩
  pulse := by rintro _ _ ⟨hs, p, rfl⟩; exact ⟨hs, p, rfl⟩
  setResult := by rintro _ _ ⟨hs, p, rfl⟩ _; exact ⟨hs, p, rfl⟩
  setBound := by rintro _ _ ⟨hs, p, rfl⟩ _; exact ⟨hs, p, rfl⟩
  setRot := by rintro _ _ ⟨hs, p, rfl⟩ _; exact ⟨hs, p, rfl⟩
  setInv := by rintro _ _ ⟨hs, p, rfl⟩ _; exact ⟨hs, p, rfl⟩
  setReady := by rintro _ _ ⟨hs, p, rfl⟩ _; exact ⟨hs, p, rfl⟩
  dropStore := by rintro _ _ ⟨_, p, rfl⟩; exact ⟨rfl, p, rfl⟩
  raise := by rintro _ _ ⟨hs, p, rfl⟩ _; exact ⟨hs, p, rfl⟩

/-- FB_INIT of an unallocated surface: what the pool held is gone from every cell of the surface (R110). -/
theorem initSurface_withPool {s : State} (ha : s.fbAlloc = false) (hs : s.fbStatic = false) (p : Store) :
    ∃ q, { s with poolCells := p }.initSurface = { s.initSurface with poolCells := q }
      ∧ ∀ a, a < surfaceCells s.cfg → { s with poolCells := p }.initSurface.memRead a = s.initSurface.memRead a := by
  have hans : { s with poolCells := p }.allocAnswer = s.allocAnswer := rfl
  simp only [State.initSurface, hans]
  split
  case isTrue h => simp [ha] at h
  split
  · exact ⟨p.clearBelow (surfaceCells s.cfg), rfl, fun a hlt => by simp [State.memRead, State.fb, hlt]⟩
  split
  · exact ⟨p, rfl, fun _ _ => rfl⟩
  · exact ⟨p, rfl, fun a _ => by simp [State.memRead, State.fb, hs]⟩

end Sys2Proof.Machine

open Sys2Proof Sys2Proof.Machine

/-- Settles O22: `scratch` is unseen by FB_INIT and by every other command. -/
theorem scratchIsUnobservable : Obligations.ScratchIsUnobservable := by
  intro i s b
  by_cases hi : i = .fbInit
  · subst hi
    exact ⟨_, _, rfl, rfl, by rw [initSurface_withScratch]⟩
  · obtain ⟨t, t', ht, ht', c, rfl⟩ := unseen_scratch.exec ⟨b, rfl⟩ hi
    exact ⟨t, _, ht, ht', rfl⟩

/-- Settles O24: FB_INIT clears what it takes from the pool, and every other command leaves a pool without a surface unseen. -/
theorem stalePoolIsUnobservable : Obligations.StalePoolIsUnobservable := by
  intro i s p ha hs
  by_cases hi : i = .fbInit
  · subst hi
    obtain ⟨q, he, hread⟩ := initSurface_withPool ha hs p
    exact ⟨_, _, rfl, rfl, by rw [he], hread⟩
  · obtain ⟨t, t', ht, ht', hR⟩ := unseen_idlePool.exec ⟨hs, p, rfl⟩ hi
    refine ⟨t, t', ht, ht', ?_, fun a _ => unseen_idlePool.memRead hR a⟩
    obtain ⟨-, q, rfl⟩ := hR
    rfl
end

section
/-! PROOFS. The invariant: it holds at reset, every operation keeps it under the premise that its place in a command gives it, so every
command keeps it, and so does the step. Then the values at reset and the fields of STATUS. -/

namespace Sys2Proof.Machine.State.Inv

variable {s t : State}

/-! The cells. -/

theorem fbWf (hs : s.Inv) : s.fb.wf = true := by
  unfold State.fb
  split
  · exact hs.poolWf
  · exact hs.dynWf

theorem fbWithin (hs : s.Inv) : s.fb.within (surfaceCells s.cfg) = true := by
  unfold State.fb
  split
  · exact hs.poolWithin
  · exact hs.dynWithin

/-- Writing cells of the surface keeps the invariant when the surface's list stays canonical and in bounds, and nothing is written
while unallocated (R60, R117). -/
theorem of_sameButCells (hs : s.Inv) (h : SameButCells s t) (hwf : t.fb.wf = true)
    (hin : t.fb.within (surfaceCells s.cfg) = true) (hun : s.fbAlloc = false → t = s) : t.Inv := by
  cases ha : s.fbAlloc with
  | false => exact hun ha ▸ hs
  | true =>
    have hstatic := h.fbStatic
    obtain ⟨heq, hdyn, hpool⟩ := h
    cases hst : s.fbStatic with
    | false =>
      have hfb : t.fb = t.dynCells := by simp [State.fb, hstatic, hst]
      rw [heq, hpool hst]
      exact { hs with dynExists := fun hno => absurd ⟨ha, hst⟩ hno, dynWf := hfb ▸ hwf, dynWithin := hfb ▸ hin }
    | true =>
      have hfb : t.fb = t.poolCells := by simp [State.fb, hstatic, hst]
      have hfit := hs.staticFits hst
      rw [heq, hdyn hst]
      exact { hs with
        poolExists := fun hno => absurd (hfit.symm.trans hno) (by decide), poolWf := hfb ▸ hwf, poolWithin := hfb ▸ hin }

theorem paint (hs : s.Inv) (dots : List Dot) : (s.paint dots).Inv :=
  hs.of_sameButCells (paint_sameButCells dots s) (paint_wf dots hs.fbWf) (paint_within dots hs.fbWithin) (paint_unallocated dots)

/-! The registers. -/

theorem setResult (hs : s.Inv) (v : Word) : (s.setResult v).Inv := { hs with }
theorem setRot (hs : s.Inv) (v : BitVec 2) : (s.setRot v).Inv := { hs with }
theorem setInv (hs : s.Inv) (v : Bool) : (s.setInv v).Inv := { hs with }
theorem setReady (hs : s.Inv) (v : Bool) : (s.setReady v).Inv := { hs with }

theorem setBound (hs : s.Inv) {v : Bool} (h : v = true → fitsPanel s.cfg = true) : (s.setBound v).Inv :=
  { hs with boundFits := h }

/-- The fault entry records its fault at `cp` (R251). -/
theorem raise (hs : s.Inv) (f : FaultKind) : (s.raise f).Inv :=
  { hs with
    faultRecorded := fun _ => ⟨by cases f <;> simp [faultCodeOf], rfl⟩
    noFaultYet := fun h => absurd h (by simp) }

theorem paintThen (hs : s.Inv) (dots : List Dot) (faults : Bool) : (s.paintThen dots faults).Inv := by
  cases faults with
  | false => exact hs.paint dots
  | true => exact (hs.paint dots).raise _

/-! The surface's lifecycle. -/

theorem dropStore (hs : s.Inv) : s.dropStore.Inv :=
  { hs with
    staticAlloc := fun h => absurd h (by simp)
    staticFits := fun h => absurd h (by simp)
    dynExists := fun _ => rfl
    dynWf := rfl
    dynWithin := rfl }

theorem drawAlloc (hs : s.Inv) : s.drawAlloc.Inv := { hs with }

theorem usePool (hs : s.Inv) (ha : s.fbAlloc = false) (hfit : fitsPool s.cfg = true) : s.usePool.Inv :=
  { hs with
    staticAlloc := fun _ => rfl
    staticFits := fun _ => hfit
    dynExists := fun _ => hs.dynExists (by simp [ha]) }

theorem useFreshStore (hs : s.Inv) : s.useFreshStore.Inv :=
  { hs with
    staticAlloc := fun _ => rfl
    staticFits := fun h => absurd h (by simp)
    dynExists := fun _ => rfl
    dynWf := rfl
    dynWithin := rfl }

theorem clearSurface (hs : s.Inv) (ha : s.fbAlloc = true) : s.clearSurface.Inv := by
  refine hs.of_sameButCells (clearSurface_sameButCells s) ?_ ?_ fun hno => absurd (ha.symm.trans hno) (by decide)
  · rw [fb_clearSurface]; exact Store.wf_clearBelow hs.fbWf _
  · rw [fb_clearSurface]; exact Store.within_clearBelow hs.fbWithin _

theorem initSurface (hs : s.Inv) : s.initSurface.Inv := by
  rcases initSurface_cases s with ⟨ha, h⟩ | ⟨ha, hfit, h⟩ | ⟨-, -, -, h⟩ | ⟨-, -, -, h⟩ <;> rw [h]
  · exact (hs.clearSurface ha).setResult _
  · exact ((hs.usePool ha hfit).clearSurface rfl).setResult _
  · exact (hs.drawAlloc.useFreshStore.clearSurface rfl).setResult _
  · exact hs.drawAlloc.setResult _

/-! The link. -/

theorem pulse (hs : s.Inv) : s.pulse.Inv := { hs with logWf := by simp [hs.logWf, eventWf] }

/-- A send keeps the invariant when its transaction is well formed, whatever the answer (R192). -/
theorem send (hs : s.Inv) {kind : TxnKind} {bytes : List Byte} (h : ∀ ok, eventWf (.txn kind bytes ok) = true) :
    (s.send kind bytes).Inv :=
  { hs with logWf := by simp [hs.logWf, h] }

theorem sendAll (hs : s.Inv) {sends : List (TxnKind × List Byte)}
    (h : ∀ p ∈ sends, ∀ ok, eventWf (.txn p.1 p.2 ok) = true) : (s.sendAll sends).Inv :=
  List.foldlRecOn (motive := State.Inv) sends _ hs fun _ ht p hp => ht.send (h p hp)

/-- A pixel transaction keeps the invariant when it has bytes and fits the scratch buffer (R40, R196). -/
theorem sendPixels (hs : s.Inv) {bytes : List Byte} (hpos : 1 ≤ bytes.length) (hfit : bytes.length ≤ s.cfg.scratchSize) :
    (s.sendPixels bytes).Inv :=
  { hs with
    scratchSized := (length_writeScratch (Nat.le_trans hfit (Nat.le_of_eq hs.scratchSized.symm))).trans hs.scratchSized
    logWf := by simp [hs.logWf, eventWf, List.ne_nil_of_length_pos hpos] }

/-- The pixel transactions of a loop. -/
theorem foldl_sendPixels {α : Type} {bytes : State → α → List Byte} (l : List α) (hs : s.Inv)
    (h : ∀ t, ∀ a ∈ l, 1 ≤ (bytes t a).length ∧ (bytes t a).length ≤ s.cfg.scratchSize) :
    (l.foldl (fun t a => t.sendPixels (bytes t a)) s).Inv := by
  induction l generalizing s with
  | nil => exact hs
  | cons a l ih =>
    obtain ⟨hpos, hfit⟩ := h s a (by simp)
    exact ih (hs.sendPixels hpos hfit) fun t b hb => h t b (by simp [hb])

theorem openWindow (hs : s.Inv) (x0 y0 x1 y1 : Nat) : (s.openWindow x0 y0 x1 y1).Inv :=
  hs.sendAll (by simp [windowSends, memoryWriteSends, rangeBytes, bytesBE, eventWf])

/-- A chunk fits the scratch buffer (R40). -/
theorem chunk_le_scratchSize {cfg : Config} {m : Nat} (h : m ≤ cfg.chunkPixels.val) : 2 * m ≤ cfg.scratchSize :=
  Nat.mul_le_mul_left 2 (Nat.le_trans h (Nat.le_max_left _ _))

/-- A row of the panel fits the scratch buffer (R40). -/
theorem row_le_scratchSize {cfg : Config} {m : Nat} (h : m ≤ panelW) : 2 * m ≤ cfg.scratchSize :=
  Nat.mul_le_mul_left 2 (Nat.le_trans h (Nat.le_max_right _ _))

theorem flushChunks (hs : s.Inv) {l : List (Nat × Nat)} (h : ∀ km ∈ l, 1 ≤ km.2 ∧ km.2 ≤ s.cfg.chunkPixels.val) :
    (s.flushChunks l).Inv := by
  induction l generalizing s with
  | nil => exact hs.setResult _
  | cons km l ih =>
    obtain ⟨hpos, hle⟩ := h km (by simp)
    have hsent : (s.sendPixels (packBE (s.cellRun km.1 km.2))).Inv :=
      hs.sendPixels (by simp; omega) (by simpa using chunk_le_scratchSize hle)
    unfold State.flushChunks
    split
    · exact ih hsent fun km hkm => h km (by simp [hkm])
    · exact hsent.setResult _

theorem flushFrame (hs : s.Inv) : s.flushFrame.Inv := by
  unfold State.flushFrame
  split
  · exact hs.setResult _
  · exact (hs.openWindow ..).flushChunks fun km hkm => mem_frameChunks hkm

theorem flushRect (hs : s.Inv) (x y w h : Nat) : (s.flushRect x y w h).Inv := by
  unfold State.flushRect
  split
  · exact hs
  split
  case isTrue hvalid =>
    obtain ⟨hw, -, hx, -⟩ := regionValid_iff.mp hvalid
    have hrow : w ≤ panelW := Nat.le_trans (Nat.le_add_left w x) hx
    exact foldl_sendPixels _ (hs.openWindow ..) fun t rr _ => ⟨by simp; omega, by simpa using row_le_scratchSize hrow⟩
  case isFalse => exact hs

theorem panelPixel (hs : s.Inv) (x y : Nat) (c : Word) : (s.panelPixel x y c).Inv := by
  unfold State.panelPixel
  split
  · exact hs
  · exact (hs.openWindow ..).sendPixels (by simp [bytesBE]) (row_le_scratchSize (m := 1) (by decide))

theorem clearPanel (hs : s.Inv) : s.clearPanel.Inv :=
  foldl_sendPixels _ (hs.openWindow ..) fun t km hkm => by
    obtain ⟨hpos, hle⟩ := mem_frameChunks hkm
    rw [List.length_replicate]
    exact ⟨by omega, chunk_le_scratchSize hle⟩

theorem initController (hs : s.Inv) : s.initController.Inv :=
  have hsent : (s.pulse.sendAll (initSends s.cfg)).Inv := hs.pulse.sendAll (by simp [initSends, eventWf])
  (((hsent.setRot _).setInv _).clearPanel).setReady _

/-! Commands and steps. -/

/-- Every command keeps the invariant. -/
theorem exec (hs : s.Inv) {i : Instr} (h : exec i s = .next t) : t.Inv := by
  cases i using Instr.drawingCases with
  | drawing i hi =>
    obtain ⟨dots, faults, he⟩ := exec_drawing s.cfg hi
    cases (he s rfl).symm.trans h
    exact hs.paintThen dots faults
  | fbInit => cases h; exact hs.initSurface
  | fbRelease => cases h; exact hs.dropStore
  | fbGetPixel x y => cases h; exact hs.setResult _
  | packRgb565 r g b => cases h; exact hs.setResult _
  | flush => cases h; exact hs.flushFrame
  | flushRegion x y w n => cases h; exact hs.flushRect ..
  | panelWritePixel x y c => cases h; exact hs.panelPixel ..
  | ctrlInit => cases h; exact hs.initController
  | bindFb =>
    cases h
    split
    case isTrue hfit => exact (hs.setBound fun _ => hfit).setResult _
    case isFalse => exact hs.setResult _
  | unbindFb => cases h; exact hs.setBound (by simp)
  | setRotation r => cases h; exact (hs.setRot r).sendAll (by simp [eventWf])
  | setInversion v => cases h; exact (hs.setInv v).send (by simp [eventWf])

/-- Going past a packet that lies inside the stream keeps the invariant (R31, R80). -/
theorem retire (hs : s.Inv) {n : Nat} (h : n ≤ s.stream.length - s.cp.toNat) : (s.retire n).Inv := by
  cases hh : s.halted with
  | true => rw [retire_of_halted n hh]; exact hs
  | false =>
    rw [retire_of_running n hh]
    have hshort := hs.streamShort
    have hcp := hs.cpInStream
    refine { hs with faultRecorded := fun h => absurd (hh.symm.trans h) (by decide), cpInStream := ?_ }
    simp only [BitVec.toNat_add, BitVec.toNat_ofNat]
    omega

end Sys2Proof.Machine.State.Inv

namespace Sys2Proof

/-! A decoded packet lies inside the words it was decoded from (R80, R86). -/

section
variable {ws : List Word} {i : Instr}

theorem operands2_words {k : Word → Word → Except DecodeError Instr} (hk : ∀ a b i, k a b = .ok i → i.words ≤ 3)
    (h : operands2 k ws = .ok i) : i.words ≤ ws.length + 1 := by
  unfold operands2 at h
  split at h
  · exact Nat.le_trans (hk _ _ _ h) (by simp)
  · cases h

theorem operands3_words {k : Word → Word → Word → Except DecodeError Instr} (hk : ∀ a b c i, k a b c = .ok i → i.words ≤ 4)
    (h : operands3 k ws = .ok i) : i.words ≤ ws.length + 1 := by
  unfold operands3 at h
  split at h
  · exact Nat.le_trans (hk _ _ _ _ h) (by simp)
  · cases h

theorem operands4_words {k : Word → Word → Word → Word → Except DecodeError Instr}
    (hk : ∀ a b c d i, k a b c d = .ok i → i.words ≤ 5) (h : operands4 k ws = .ok i) : i.words ≤ ws.length + 1 := by
  unfold operands4 at h
  split at h
  · exact Nat.le_trans (hk _ _ _ _ _ h) (by simp)
  · cases h

theorem operands5_words {k : Word → Word → Word → Word → Word → Except DecodeError Instr}
    (hk : ∀ a b c d e i, k a b c d e = .ok i → i.words ≤ 6) (h : operands5 k ws = .ok i) : i.words ≤ ws.length + 1 := by
  unfold operands5 at h
  split at h
  · exact Nat.le_trans (hk _ _ _ _ _ _ h) (by simp)
  · cases h

theorem operandsS_words {k : Word → Word → Word → Word → List Byte → Except DecodeError Instr}
    (hk : ∀ x y fg bg bytes i, k x y fg bg bytes = .ok i → i.words ≤ packetLen .S bytes.length)
    (h : operandsS k ws = .ok i) : i.words ≤ ws.length + 1 := by
  unfold operandsS at h
  split at h
  · split at h
    · rename_i hbytes
      obtain ⟨-, pad, tail, rfl⟩ := packString_stringBytes hbytes
      exact Nat.le_trans (hk _ _ _ _ _ _ h) (by simp [packetLen]; omega)
    · cases h
  · cases h

theorem packChannels_words {r g b : Word} (h : packChannels r g b = .ok i) : i.words ≤ 4 := by
  unfold packChannels at h
  split at h <;> cases h
  exact Nat.le_refl _

theorem decodeOperands_words {op : Opcode} {aux : Byte} (h : decodeOperands op aux ws = .ok i) : i.words ≤ ws.length + 1 := by
  cases op with
  | packRgb565 => exact operands3_words (fun _ _ _ _ => packChannels_words) h
  | fbGetPixel => exact operands2_words (by rintro _ _ _ ⟨⟩; exact Nat.le_refl _) h
  | fbSetPixel | panelWritePixel => exact operands3_words (by rintro _ _ _ _ ⟨⟩; exact Nat.le_refl _) h
  | fbDrawCircle | fbFillCircle | flushRegion => exact operands4_words (by rintro _ _ _ _ _ ⟨⟩; exact Nat.le_refl _) h
  | fbDrawLine | fbDrawRect | fbFillRect | fbDrawChar | fbDrawCharScaled =>
    exact operands5_words (by rintro _ _ _ _ _ _ ⟨⟩; exact Nat.le_refl _) h
  | fbDrawString | fbDrawStringScaled | fbDrawStringUtf8 | fbDrawStringUtf8Scaled =>
    exact operandsS_words (by rintro _ _ _ _ _ _ ⟨⟩; exact Nat.le_refl _) h
  | fbInit | fbRelease | flush | ctrlInit | bindFb | unbindFb | setRotation | setInversion =>
    cases h; exact Nat.le_add_left 1 _

theorem decode_words (h : decode ws = .ok i) : i.words ≤ ws.length := by
  unfold decode at h
  split at h
  · cases h
  · split at h
    · cases h
    · split at h
      · exact decodeOperands_words h
      · cases h

end

end Sys2Proof

namespace Sys2Proof.Machine

/-- Every step keeps the invariant: an illegal packet's fault entry does, and so does a command with its advance of `cp`. -/
theorem State.Inv.step {s t : State} (hs : s.Inv) (h : step s = .next t) : t.Inv := by
  obtain ⟨-, -, ⟨-, rfl⟩ | ⟨i, u, -, hd, hu, rfl⟩⟩ := step_effect h
  · exact hs.raise _
  · have hf := exec_engineFrame hu
    refine (hs.exec hu).retire ?_
    rw [hf.stream, hf.cp, ← List.length_drop]
    exact decode_words hd

/-- Reset meets the invariant for every stream within the host's duty (R47, R276). -/
theorem resetWith_inv (cfg : Config) {stream : List Word} (aa : List Bool) (ad : Nat) (sa : List Bool) (sd : Nat)
    (h : stream.length < 2 ^ 32) : (State.resetWith cfg stream aa ad sa sd).Inv where
  staticAlloc := by simp [State.resetWith]
  staticFits := by simp [State.resetWith]
  dynExists := by simp [State.resetWith]
  poolExists := by simp [State.resetWith]
  dynWf := rfl
  poolWf := rfl
  dynWithin := rfl
  poolWithin := rfl
  boundFits := by simp [State.resetWith]
  neverBusy := rfl
  faultRecorded := by simp [State.resetWith]
  noFaultYet := fun _ => ⟨rfl, rfl⟩
  scratchSized := List.length_replicate
  logWf := rfl
  streamShort := h
  cpInStream := Nat.zero_le _

/-- Bit `k` of STATUS as the host reads it: the fields from the right, each at the bits it takes (R33). -/
theorem getLsbD_hostRead_status (s : State) (k : Nat) : (s.hostRead .status).getLsbD k =
    if k < 1 then s.fbAlloc else if k < 2 then s.fbStatic else if k < 3 then s.bound else if k < 4 then s.ready
    else if k < 5 then s.inv else if k < 7 then s.rot.getLsbD (k - 5) else if k < 8 then s.xferBusy
    else if k < 9 then s.halted else false := by
  rw [State.hostRead, BitVec.getLsbD_setWidth, State.status]
  iterate 8 rw [BitVec.getLsbD_append]
  by_cases h9 : 9 ≤ k
  · simp (disch := omega) only [if_neg, BitVec.getLsbD_zero, Bool.and_false]
  · obtain rfl | rfl | rfl | rfl | rfl | rfl | rfl | rfl | rfl :
        k = 0 ∨ k = 1 ∨ k = 2 ∨ k = 3 ∨ k = 4 ∨ k = 5 ∨ k = 6 ∨ k = 7 ∨ k = 8 := by omega
    all_goals simp

end Sys2Proof.Machine

open Sys2Proof Sys2Proof.Machine

/-- Settles O16: the invariant is kept by the fault entry, by every command, and by going past the packet. -/
theorem stepKeepsTheInvariant : Obligations.StepKeepsTheInvariant :=
  fun _ _ hs h => hs.step h

/-- Settles O15: the base case of the invariant, for the machine's own reset state and for block reset. -/
theorem resetMeetsTheInvariant : Obligations.ResetMeetsTheInvariant :=
  ⟨resetWith_inv _ _ _ _ _ (by decide), fun _ h => resetWith_inv _ _ _ _ _ h⟩

/-- Settles O13: each value of R47, and STATUS computed from them. -/
theorem resetValues : Obligations.ResetValues := by
  intro cfg stream aa ad sa sd
  exact ⟨rfl, rfl, rfl, rfl, rfl, rfl, rfl, rfl, rfl, rfl, rfl, rfl, rfl, rfl, by simp [State.status, State.resetWith]⟩

/-- Settles O25: STATUS is its fields side by side, and reading zero-extends it. -/
theorem statusFields : Obligations.StatusFields := by
  intro s
  have bit : ∀ k, (s.hostRead .status).getLsbD k = _ := getLsbD_hostRead_status s
  refine ⟨bit 0, bit 1, bit 2, bit 3, bit 4, bit 5, bit 6, bit 7, bit 8, fun k hk => ?_⟩
  rw [bit]
  simp (disch := omega) only [if_neg]
end

section
/-! PROOFS. The encoding and the decoder are inverse: what each operand reader accepts is the operand words it reads, so the words of a
legal header's packet and the instruction determine each other, but for the padding byte (`decodeOperands_operandWords`,
`decodeOperands_isEncoding`), and the header finds the row they are read by (`decode_header`, `decode_cons_cases`). -/

namespace Sys2Proof

/-! Bytes and `aux` fields. -/

theorem hiByte_eq_zero_iff {w : Word} : hiByte w = 0#8 ↔ w.toNat < 256 := by
  rw [← BitVec.toNat_inj, toNat_hiByte]
  exact Nat.div_eq_zero_iff_lt (by decide)

theorem loByte_eq_ofNat (w : Word) : loByte w = BitVec.ofNat 8 w.toNat := by
  apply BitVec.eq_of_toNat_eq
  rw [toNat_loByte, BitVec.toNat_ofNat]

/-- A legal rotation is its two low bits (R90). -/
theorem setWidth_rotationBits {aux : Byte} (h : aux.toNat ≤ 3) : (aux.extractLsb' 0 2).setWidth 8 = aux := by
  apply BitVec.eq_of_toNat_eq
  simp only [BitVec.toNat_setWidth, BitVec.extractLsb'_toNat, Nat.shiftRight_zero]
  omega

/-- A legal inversion value is its low bit (R90). -/
theorem setWidth_inversionBit {aux : Byte} (h : aux.toNat ≤ 1) : (BitVec.ofBool (aux.getLsbD 0)).setWidth 8 = aux := by
  obtain h | h : aux = 0#8 ∨ aux = 1#8 := by
    rw [← BitVec.toNat_inj, ← BitVec.toNat_inj]
    simp only [BitVec.toNat_ofNat]
    omega
  all_goals subst h; decide

theorem extractLsb'_setWidth_rotation (r : BitVec 2) : (r.setWidth 8).extractLsb' 0 2 = r := by
  apply BitVec.eq_of_toNat_eq
  simp only [BitVec.toNat_setWidth, BitVec.extractLsb'_toNat, Nat.shiftRight_zero]
  omega

/-! Decoding what the encoder wrote. -/

theorem packChannels_eq_ok {r g b : Word} (hr : r.toNat < 256) (hg : g.toNat < 256) (hb : b.toNat < 256) :
    packChannels r g b = .ok (.packRgb565 (loByte r) (loByte g) (loByte b)) := by
  simp [packChannels, hiByte_eq_zero_iff, hr, hg, hb]

theorem operandsS_stringOperands (k : Word → Word → Word → Word → List Byte → Except DecodeError Instr) (pad : Byte)
    (x y fg bg : Word) {bytes : List Byte} (h : stringFits bytes = true) (rest : List Word) :
    operandsS k (stringOperands pad x y fg bg bytes ++ rest) = k x y fg bg bytes := by
  have hn : (BitVec.ofNat 16 bytes.length).toNat = bytes.length := by
    rw [BitVec.toNat_ofNat]
    exact Nat.mod_eq_of_lt (of_decide_eq_true h)
  simp [operandsS, stringOperands, hn, stringBytes_packString]

/-- A well-formed instruction's operand words are read back under its own header (R83, R84, R89, R90). -/
theorem decodeOperands_operandWords {i : Instr} (h : i.wf = true) (pad : Byte) (rest : List Word) :
    decodeOperands i.opcode i.aux (i.operandWords pad ++ rest) = .ok i := by
  cases i with
  | fbDrawString | fbDrawStringScaled | fbDrawStringUtf8 | fbDrawStringUtf8Scaled =>
    simp [Instr.opcode, Instr.operandWords, decodeOperands, operandsS_stringOperands _ pad _ _ _ _ h, Instr.aux]
  | packRgb565 r g b =>
    show packChannels (wordOf 0 r) (wordOf 0 g) (wordOf 0 b) = _
    simp [packChannels]
  | setRotation r => exact congrArg (Except.ok ∘ Instr.setRotation) (extractLsb'_setWidth_rotation r)
  | setInversion v => cases v <;> rfl
  | _ => rfl

/-- The decoder goes on from an instruction's header to its operands (R81, R93). -/
theorem decode_header (i : Instr) (ws : List Word) :
    decode (wordOf (opcodeByte i.opcode) i.aux :: ws) = decodeOperands i.opcode i.aux ws := by
  simp [decode]

theorem decode_encodePadded {i : Instr} (h : i.wf = true) (pad : Byte) (rest : List Word) :
    decode (encodePadded pad i ++ rest) = .ok i :=
  (decode_header i _).trans (decodeOperands_operandWords h pad rest)

/-! What each operand reader can do: it takes its operand words from the front, or finds the packet short. -/

section
variable {ws : List Word} {r : Except DecodeError Instr}

theorem operands2_cases {k : Word → Word → Except DecodeError Instr} (h : operands2 k ws = r) :
    (∃ a b tail, ws = a :: b :: tail ∧ k a b = r) ∨ r = .error .shortPacket := by
  unfold operands2 at h
  split at h
  · exact .inl ⟨_, _, _, rfl, h⟩
  · exact .inr h.symm

theorem operands3_cases {k : Word → Word → Word → Except DecodeError Instr} (h : operands3 k ws = r) :
    (∃ a b c tail, ws = a :: b :: c :: tail ∧ k a b c = r) ∨ r = .error .shortPacket := by
  unfold operands3 at h
  split at h
  · exact .inl ⟨_, _, _, _, rfl, h⟩
  · exact .inr h.symm

theorem operands4_cases {k : Word → Word → Word → Word → Except DecodeError Instr} (h : operands4 k ws = r) :
    (∃ a b c d tail, ws = a :: b :: c :: d :: tail ∧ k a b c d = r) ∨ r = .error .shortPacket := by
  unfold operands4 at h
  split at h
  · exact .inl ⟨_, _, _, _, _, rfl, h⟩
  · exact .inr h.symm

theorem operands5_cases {k : Word → Word → Word → Word → Word → Except DecodeError Instr} (h : operands5 k ws = r) :
    (∃ a b c d e tail, ws = a :: b :: c :: d :: e :: tail ∧ k a b c d e = r) ∨ r = .error .shortPacket := by
  unfold operands5 at h
  split at h
  · exact .inl ⟨_, _, _, _, _, _, rfl, h⟩
  · exact .inr h.symm

/-- A string command's words are its operands and its packed bytes, whose padding byte may hold any value (R84). -/
theorem operandsS_cases {k : Word → Word → Word → Word → List Byte → Except DecodeError Instr} (h : operandsS k ws = r) :
    (∃ x y fg bg bytes pad tail, stringFits bytes = true ∧ ws = stringOperands pad x y fg bg bytes ++ tail
        ∧ k x y fg bg bytes = r)
      ∨ r = .error .shortPacket := by
  unfold operandsS at h
  split at h
  case h_1 x y fg bg n rest =>
    split at h
    · rename_i bytes hbytes
      obtain ⟨hlen, pad, tail, rfl⟩ := packString_stringBytes hbytes
      refine .inl ⟨x, y, fg, bg, bytes, pad, tail, ?_, ?_, h⟩
      · exact decide_eq_true (hlen ▸ n.isLt)
      · simp [stringOperands, hlen]
    · exact .inr h.symm
  · exact .inr h.symm

end

theorem packChannels_cases (r g b : Word) :
    (∃ r' g' b', r = wordOf 0 r' ∧ g = wordOf 0 g' ∧ b = wordOf 0 b' ∧ packChannels r g b = .ok (.packRgb565 r' g' b'))
      ∨ packChannels r g b = .error .reservedBits := by
  unfold packChannels
  split
  · rename_i h
    simp only [Bool.and_eq_true, beq_iff_eq, and_assoc] at h
    obtain ⟨hr, hg, hb⟩ := h
    refine .inl ⟨_, _, _, ?_, ?_, ?_, rfl⟩
    · rw [← hr, wordOf_bytes]
    · rw [← hg, wordOf_bytes]
    · rw [← hb, wordOf_bytes]
  · exact .inr rfl

/-! What the decoder accepts. -/

/-- `i` is what the words `ws` after a header with `op` and `aux` stand for: they begin with `i`'s operand words. -/
structure IsEncoding (op : Opcode) (aux : Byte) (ws : List Word) (i : Instr) : Prop where
  opcode : i.opcode = op
  aux : i.aux = aux
  wf : i.wf = true
  words : ∃ pad tail, ws = i.operandWords pad ++ tail

theorem decodeOperands_isEncoding {op : Opcode} {aux : Byte} {ws : List Word} {i : Instr}
    (haux : auxLegal (opcodeAux op) aux = true) (h : decodeOperands op aux ws = .ok i) : IsEncoding op aux ws i := by
  cases op with
  | fbInit | fbRelease | flush | ctrlInit | bindFb | unbindFb =>
    cases h
    exact ⟨rfl, (eq_of_beq haux).symm, rfl, 0, ws, rfl⟩
  | setRotation =>
    cases h
    exact ⟨rfl, setWidth_rotationBits (of_decide_eq_true haux), rfl, 0, ws, rfl⟩
  | setInversion =>
    cases h
    exact ⟨rfl, setWidth_inversionBit (of_decide_eq_true haux), rfl, 0, ws, rfl⟩
  | fbGetPixel =>
    obtain ⟨a, b, tail, rfl, ⟨⟩⟩ := (operands2_cases h).resolve_right nofun
    exact ⟨rfl, (eq_of_beq haux).symm, rfl, 0, tail, rfl⟩
  | fbSetPixel | panelWritePixel =>
    obtain ⟨a, b, c, tail, rfl, ⟨⟩⟩ := (operands3_cases h).resolve_right nofun
    exact ⟨rfl, (eq_of_beq haux).symm, rfl, 0, tail, rfl⟩
  | fbDrawCircle | fbFillCircle | flushRegion =>
    obtain ⟨a, b, c, d, tail, rfl, ⟨⟩⟩ := (operands4_cases h).resolve_right nofun
    exact ⟨rfl, (eq_of_beq haux).symm, rfl, 0, tail, rfl⟩
  | fbDrawLine | fbDrawRect | fbFillRect | fbDrawChar =>
    obtain ⟨a, b, c, d, e, tail, rfl, ⟨⟩⟩ := (operands5_cases h).resolve_right nofun
    exact ⟨rfl, (eq_of_beq haux).symm, rfl, 0, tail, rfl⟩
  | fbDrawCharScaled =>
    obtain ⟨a, b, c, d, e, tail, rfl, ⟨⟩⟩ := (operands5_cases h).resolve_right nofun
    exact ⟨rfl, rfl, rfl, 0, tail, rfl⟩
  | fbDrawString | fbDrawStringUtf8 =>
    obtain ⟨x, y, fg, bg, bytes, pad, tail, hfits, rfl, ⟨⟩⟩ := (operandsS_cases h).resolve_right nofun
    exact ⟨rfl, (eq_of_beq haux).symm, hfits, pad, tail, rfl⟩
  | fbDrawStringScaled | fbDrawStringUtf8Scaled =>
    obtain ⟨x, y, fg, bg, bytes, pad, tail, hfits, rfl, ⟨⟩⟩ := (operandsS_cases h).resolve_right nofun
    exact ⟨rfl, rfl, hfits, pad, tail, rfl⟩
  | packRgb565 =>
    obtain ⟨r, g, b, tail, rfl, hk⟩ := (operands3_cases h).resolve_right nofun
    obtain ⟨r', g', b', rfl, rfl, rfl, hp⟩ | hp := packChannels_cases r g b <;> cases hp.symm.trans hk
    exact ⟨rfl, (eq_of_beq haux).symm, rfl, 0, tail, rfl⟩

/-- The header names a row of the opcode map, and its `aux` is legal there (R88, R90, R91). -/
def legalHeader (hdr : Word) : Bool := (opcodeOf (hiByte hdr)).any fun op => auxLegal (opcodeAux op) (loByte hdr)

/-- What the decoder does with a header: it refuses an illegal one, and goes on to the operands of the row that a legal one names (R93). -/
theorem decode_cons_cases (hdr : Word) (ws : List Word) :
    (legalHeader hdr = false ∧ (decode (hdr :: ws) = .error .reservedOpcode ∨ decode (hdr :: ws) = .error .illegalAux))
      ∨ ∃ op, opcodeOf (hiByte hdr) = some op ∧ auxLegal (opcodeAux op) (loByte hdr) = true
          ∧ decode (hdr :: ws) = decodeOperands op (loByte hdr) ws := by
  cases hop : opcodeOf (hiByte hdr) with
  | none => simp [decode, legalHeader, hop]
  | some op => cases haux : auxLegal (opcodeAux op) (loByte hdr) <;> simp [decode, legalHeader, hop, haux]

theorem eq_encodePadded_append_of_decode {ws : List Word} {i : Instr} (h : decode ws = .ok i) :
    i.wf = true ∧ ∃ pad tail, ws = encodePadded pad i ++ tail := by
  cases ws with
  | nil => cases h
  | cons hdr ws =>
    obtain ⟨-, he | he⟩ | ⟨op, hop, haux, hops⟩ := decode_cons_cases hdr ws
    · cases he.symm.trans h
    · cases he.symm.trans h
    obtain ⟨rfl, hi, hwf, pad, tail, rfl⟩ := decodeOperands_isEncoding haux (hops.symm.trans h)
    refine ⟨hwf, pad, tail, ?_⟩
    rw [encodePadded, hi, opcodeByte_of_opcodeOf hop, wordOf_bytes, List.cons_append]

end Sys2Proof

open Sys2Proof Sys2Proof.Machine

/-- Settles O1: the header leads to the instruction's row, and its operand words are read back. -/
theorem decodeOfEncodeIsTheInstruction : Obligations.DecodeOfEncodeIsTheInstruction :=
  fun _ pad rest h => decode_encodePadded h pad rest

/-- Settles O2: accepted words begin with the instruction's packet, which is as long as R86 says. -/
theorem decodedWordsAreTheEncoding : Obligations.DecodedWordsAreTheEncoding := by
  intro ws i h
  obtain ⟨hwf, pad, tail, rfl⟩ := eq_encodePadded_append_of_decode h
  refine ⟨hwf, decode_words h, pad, ?_⟩
  rw [← length_encodePadded pad i, List.take_left]
end

section
/-! PROOFS. What the decoder refuses: an illegal header, a short packet, and PACK_RGB565's reserved bits; and what the engine's step does
with a packet it accepts, refuses, or does not have whole yet. -/

namespace Sys2Proof

/-! Headers. -/

theorem decode_of_illegalHeader {hdr : Word} (h : legalHeader hdr = false) (ws : List Word) :
    decode (hdr :: ws) = .error .reservedOpcode ∨ decode (hdr :: ws) = .error .illegalAux := by
  obtain ⟨-, hd⟩ | ⟨op, hop, haux, -⟩ := decode_cons_cases hdr ws
  · exact hd
  · simp [legalHeader, hop, haux] at h

theorem toNat_opcodeByte_of_header {hdr : Word} {op : Opcode} (h : opcodeOf (hiByte hdr) = some op) :
    (opcodeByte op).toNat = hdr.toNat / 256 := by
  rw [opcodeByte_of_opcodeOf h, toNat_hiByte]

/-- A header is illegal when every row it may name refuses its `aux` (R88, R90), or it names none (R91). -/
theorem legalHeader_eq_false {hdr : Word}
    (h : ∀ op, (opcodeByte op).toNat = hdr.toNat / 256 → auxLegal (opcodeAux op) (loByte hdr) = false) :
    legalHeader hdr = false := by
  unfold legalHeader
  cases hop : opcodeOf (hiByte hdr) with
  | none => rfl
  | some op => exact h op (toNat_opcodeByte_of_header hop)

/-- No row of the opcode map has a reserved opcode (R87, R91). -/
theorem opcodeByte_not_reserved (op : Opcode) :
    let opc := (opcodeByte op).toNat
    ¬ (opc = 0 ∨ (0x05 ≤ opc ∧ opc ≤ 0x0F) ∨ (0x15 ≤ opc ∧ opc ≤ 0x1F) ∨ (0x26 ≤ opc ∧ opc ≤ 0x2F)
      ∨ (0x34 ≤ opc ∧ opc ≤ 0x3F) ∨ (0x45 ≤ opc ∧ opc ≤ 0xFF)) := by
  cases op <;> decide

/-- The opcodes whose `aux` must be 0 (R87, R88). -/
theorem opcodeAux_eq_zero {op : Opcode} :
    (opcodeByte op).toNat ∈ [0x01, 0x02, 0x03, 0x04, 0x10, 0x11, 0x12, 0x13, 0x14, 0x20, 0x22, 0x24, 0x30, 0x31, 0x32, 0x33,
      0x40, 0x41, 0x42] → opcodeAux op = .zero := by
  cases op <;> decide

/-- Only SET_ROTATION has opcode 0x43 (R87). -/
theorem opcodeAux_eq_rotation {op : Opcode} : (opcodeByte op).toNat = 0x43 → opcodeAux op = .rotation := by
  cases op <;> decide

/-- Only SET_INVERSION has opcode 0x44 (R87). -/
theorem opcodeAux_eq_inversion {op : Opcode} : (opcodeByte op).toNat = 0x44 → opcodeAux op = .inversion := by
  cases op <;> decide

/-! Operands. -/

theorem packChannels_eq_error {r g b : Word} (h : 256 ≤ r.toNat ∨ 256 ≤ g.toNat ∨ 256 ≤ b.toNat) :
    packChannels r g b = .error .reservedBits := by
  have hbits : ¬ (hiByte r = 0#8 ∧ hiByte g = 0#8 ∧ hiByte b = 0#8) := by simp only [hiByte_eq_zero_iff]; omega
  simpa [packChannels, and_assoc] using hbits

/-- With a legal header a packet is refused for missing words, or for PACK_RGB565's reserved bits once its words are there (R80, R89). -/
theorem decodeOperands_eq_error {op : Opcode} {aux : Byte} {ws : List Word} {e : DecodeError}
    (h : decodeOperands op aux ws = .error e) :
    e = .shortPacket ∨ (op = .packRgb565 ∧ e = .reservedBits ∧ 3 ≤ ws.length) := by
  cases op with
  | fbInit | fbRelease | flush | ctrlInit | bindFb | unbindFb | setRotation | setInversion => cases h
  | fbGetPixel =>
    obtain ⟨_, _, _, -, hk⟩ | he := operands2_cases h
    · cases hk
    · cases he; exact .inl rfl
  | fbSetPixel | panelWritePixel =>
    obtain ⟨_, _, _, _, -, hk⟩ | he := operands3_cases h
    · cases hk
    · cases he; exact .inl rfl
  | fbDrawCircle | fbFillCircle | flushRegion =>
    obtain ⟨_, _, _, _, _, -, hk⟩ | he := operands4_cases h
    · cases hk
    · cases he; exact .inl rfl
  | fbDrawLine | fbDrawRect | fbFillRect | fbDrawChar | fbDrawCharScaled =>
    obtain ⟨_, _, _, _, _, _, -, hk⟩ | he := operands5_cases h
    · cases hk
    · cases he; exact .inl rfl
  | fbDrawString | fbDrawStringScaled | fbDrawStringUtf8 | fbDrawStringUtf8Scaled =>
    obtain ⟨_, _, _, _, _, _, _, -, -, hk⟩ | he := operandsS_cases h
    · cases hk
    · cases he; exact .inl rfl
  | packRgb565 =>
    obtain ⟨r, g, b, tail, rfl, hk⟩ | he := operands3_cases h
    · obtain ⟨_, _, _, -, -, -, hp⟩ | hp := packChannels_cases r g b <;> cases hp.symm.trans hk
      exact .inr ⟨rfl, rfl, by simp⟩
    · cases he; exact .inl rfl

/-- Only PACK_RGB565 has reserved operand bits (R89). -/
theorem opcode_of_reservedBits {hdr : Word} {ws : List Word} (h : decode (hdr :: ws) = .error .reservedBits) :
    hdr.toNat / 256 = 0x30 := by
  obtain ⟨-, he | he⟩ | ⟨op, hop, -, hops⟩ := decode_cons_cases hdr ws
  · cases he.symm.trans h
  · cases he.symm.trans h
  obtain he | ⟨rfl, -, -⟩ := decodeOperands_eq_error (hops.symm.trans h)
  · cases he
  · exact (toNat_opcodeByte_of_header hop).symm

/-! Short packets. -/

/-- Further words do not change what a whole packet decodes to (R80). -/
theorem decode_append {ws : List Word} {i : Instr} (h : decode ws = .ok i) (more : List Word) : decode (ws ++ more) = .ok i := by
  obtain ⟨hwf, pad, tail, rfl⟩ := eq_encodePadded_append_of_decode h
  rw [List.append_assoc]
  exact decode_encodePadded hwf pad _

/-- A packet only begun does not decode: what it decoded to would be the packet's own instruction, which has more words. -/
theorem decode_take_ne_ok {i : Instr} (h : i.wf = true) (pad : Byte) {n : Nat} (hn : n < i.words) (j : Instr) :
    decode ((encodePadded pad i).take n) ≠ .ok j := by
  intro hj
  have hwhole : decode (encodePadded pad i ++ []) = .ok j := by
    rw [List.append_nil, ← List.take_append_drop n (encodePadded pad i)]
    exact decode_append hj _
  obtain rfl : i = j := Except.ok.inj ((decode_encodePadded h pad []).symm.trans hwhole)
  have hle := decode_words hj
  rw [List.length_take] at hle
  omega

/-- The words of a packet only begun are refused as short (R98). -/
theorem decode_take {i : Instr} (h : i.wf = true) (pad : Byte) {n : Nat} (hpos : 0 < n) (hn : n < i.words) :
    decode ((encodePadded pad i).take n) = .error .shortPacket := by
  cases hd : decode ((encodePadded pad i).take n) with
  | ok j => exact absurd hd (decode_take_ne_ok h pad hn j)
  | error e =>
    obtain ⟨m, rfl⟩ : ∃ m, n = m + 1 := ⟨n - 1, by omega⟩
    rw [encodePadded, List.take_succ_cons, decode_header] at hd
    obtain rfl | ⟨hop, -, hlen⟩ := decodeOperands_eq_error hd
    · rfl
    · rw [List.length_take] at hlen
      simp only [Instr.words, hop, opcodeFormat, packetLen] at hn
      omega

end Sys2Proof

namespace Sys2Proof.Machine

/-! The fetch and the step. -/

/-- What the engine finds, by how the words at `cp` decode (R80, R93, R98). -/
def Fetched.ofDecode : Except DecodeError Instr → Fetched
  | .ok i => .command i
  | .error .noWords => .awaiting
  | .error .shortPacket => .awaiting
  | .error .reservedOpcode => .illegal
  | .error .illegalAux => .illegal
  | .error .reservedBits => .illegal

/-- A running engine with a word left fetches what its words decode to. -/
theorem fetch_of_decode {s : State} {r : Except DecodeError Instr} (hrun : s.halted = false)
    (hd : decode (s.stream.drop s.cp.toNat) = r) (hwords : r ≠ .error .noWords) : s.fetch = Fetched.ofDecode r := by
  have hcp : s.cp.toNat ≠ s.stream.length := fun hcp => hwords (by rw [← hd, hcp, List.drop_length]; rfl)
  subst hd
  simp only [State.fetch, hrun, hcp]
  rfl

/-- An illegal packet raises IllegalCommand (R93, R251). -/
theorem step_of_illegal {s : State} {r : Except DecodeError Instr} (hrun : s.halted = false)
    (hd : decode (s.stream.drop s.cp.toNat) = r) (hr : Fetched.ofDecode r = .illegal) :
    step s = .next (s.raise .illegalCommand) := by
  have hf := fetch_of_decode hrun hd (by rintro rfl; cases hr)
  simp [step, hf, hr]

/-- A header that is illegal raises IllegalCommand, whatever follows it (R88, R90, R91). -/
theorem step_of_illegalHeader {s : State} {hdr : Word} (hrun : s.halted = false) (hhdr : s.stream[s.cp.toNat]? = some hdr)
    (h : legalHeader hdr = false) : step s = .next (s.raise .illegalCommand) := by
  have hdrop : s.stream.drop s.cp.toNat = hdr :: s.stream.drop (s.cp.toNat + 1) := by
    rw [List.drop_eq_getElem?_toList_append, hhdr]
    rfl
  obtain hd | hd := decode_of_illegalHeader h (s.stream.drop (s.cp.toNat + 1))
  · exact step_of_illegal hrun ((congrArg decode hdrop).trans hd) rfl
  · exact step_of_illegal hrun ((congrArg decode hdrop).trans hd) rfl

/-- A legal packet runs its command (R80). -/
theorem step_of_command {s u : State} {i : Instr} (hrun : s.halted = false) (hd : decode (s.stream.drop s.cp.toNat) = .ok i)
    (hu : exec i s = .next u) : step s = .next (u.retire i.words) := by
  have hf : s.fetch = .command i := fetch_of_decode hrun hd nofun
  simp [step, hf, hu]

/-- The advance of `cp`, by whether the command faulted (R31, R251). -/
theorem retire_eq (u : State) (n : Nat) : u.retire n = if u.halted = true then u else { u with cp := u.cp + BitVec.ofNat 32 n } := by
  split
  case isTrue h => exact retire_of_halted n h
  case isFalse h => exact retire_of_running n (Bool.eq_false_iff.mpr h)

theorem runOver_iff {s : State} : s.runOver = true ↔ s.halted = false ∧ s.cp.toNat = s.stream.length := by
  simp [State.runOver]

/-- The host supplies the rest of the words of a packet at `cp`, and the engine fetches it (R98). -/
theorem supply_fetch {s : State} {i : Instr} {begun rest : List Word} (hrun : s.halted = false) (hbegun : begun ≠ [])
    (hs : s.stream.drop s.cp.toNat = begun) (hd : decode (begun ++ rest) = .ok i)
    (hshort : s.stream.length + rest.length < 2 ^ 32) : ∃ u, s.supply rest = some u ∧ u.fetch = .command i := by
  refine ⟨_, supply_eq_some_iff.mpr ⟨hshort, rfl⟩, fetch_of_decode (r := .ok i) hrun ?_ nofun⟩
  have hcp : s.cp.toNat ≤ s.stream.length := by
    have hpos : 0 < (s.stream.drop s.cp.toNat).length := hs ▸ List.length_pos_iff.mpr hbegun
    rw [List.length_drop] at hpos
    omega
  show decode ((s.stream ++ rest).drop s.cp.toNat) = .ok i
  rw [List.drop_append_of_le_length hcp, hs, hd]

end Sys2Proof.Machine

open Sys2Proof Sys2Proof.Machine

/-- Settles O5: a reserved opcode is in no row of the opcode map. -/
theorem reservedOpcodeRaisesIllegalCommand : Obligations.ReservedOpcodeRaisesIllegalCommand := by
  intro s hdr hrun hhdr hres
  refine step_of_illegalHeader hrun hhdr (legalHeader_eq_false fun op hop => ?_)
  exact absurd (hop ▸ hres) (opcodeByte_not_reserved op)

/-- Settles O6: the row's rule refuses the `aux`. -/
theorem illegalAuxRaisesIllegalCommand : Obligations.IllegalAuxRaisesIllegalCommand := by
  intro s hdr hrun hhdr haux
  refine step_of_illegalHeader hrun hhdr (legalHeader_eq_false fun op hop => ?_)
  obtain ⟨hopc, haux⟩ | ⟨hopc, haux⟩ | ⟨hopc, haux⟩ := haux
  · rw [opcodeAux_eq_zero (hop ▸ hopc)]
    exact beq_false_of_ne fun h0 => haux (by rw [← toNat_loByte, h0]; rfl)
  · rw [opcodeAux_eq_rotation (hop.trans hopc)]
    exact decide_eq_false (by rw [toNat_loByte]; omega)
  · rw [opcodeAux_eq_inversion (hop.trans hopc)]
    exact decide_eq_false (by rw [toNat_loByte]; omega)

/-- Settles O7: PACK_RGB565's operand words are its channels exactly when their high bytes are 0, and no other command is refused for
its operands. -/
theorem onlyPackHasReservedOperandBits : Obligations.OnlyPackHasReservedOperandBits := by
  have hpack : ∀ r g b rest, decode (0x3000#16 :: r :: g :: b :: rest) = packChannels r g b := fun _ _ _ _ => rfl
  refine ⟨fun s r g b rest hrun hs hbits => ?_, fun r g b rest hr hg hb => ?_, fun hdr rest hopc hd => ?_⟩
  · refine step_of_illegal hrun (r := .error .reservedBits) ?_ rfl
    rw [hs, hpack, packChannels_eq_error hbits]
  · rw [hpack, packChannels_eq_ok hr hg hb]
    simp only [loByte_eq_ofNat]
  · exact hopc (opcode_of_reservedBits hd)

/-- Settles O8: the stream's end is found before any decoding, a begun packet is short, and the words that complete it decode to it. -/
theorem shortStreamsHaveNoStep : Obligations.ShortStreamsHaveNoStep := by
  refine ⟨fun s hrun hcp => ?_, fun s i pad n hrun hwf hpos hn hs => ?_, fun s hhalt => ?_⟩
  · exact ⟨by simp [step, State.fetch, hrun, hcp], runOver_iff.mpr ⟨hrun, hcp⟩⟩
  · have hbegun : (encodePadded pad i).take n ≠ [] := by simp [encodePadded]; omega
    have hf : s.fetch = .awaiting :=
      fetch_of_decode (r := .error .shortPacket) hrun (by rw [hs, decode_take hwf pad hpos hn]) nofun
    refine ⟨by simp [step, hf], Bool.eq_false_iff.mpr fun hover => hbegun ?_, fun hshort => ?_⟩
    · rw [← hs, (runOver_iff.mp hover).2, List.drop_length]
    · refine supply_fetch hrun hbegun hs ?_ (by rwa [List.length_drop, length_encodePadded])
      simpa using decode_encodePadded hwf pad []
  · simp [State.runOver, hhalt]

/-- Settles O3: by decoding them. -/
theorem workedWordsDecode : Obligations.WorkedWordsDecode := ⟨rfl, rfl, rfl, rfl, rfl, rfl⟩

/-- Settles O4: the fetched command runs, and `retire` is the advance of `cp`. -/
theorem stepRunsTheDecodedInstruction : Obligations.StepRunsTheDecodedInstruction := by
  intro s i hrun hd
  obtain ⟨u, hu⟩ := exec_next i s
  rw [step_of_command hrun hd hu, hu, retire_eq]

/-- Settles O59: supplying appends the words within the host's duty, and is no move beyond it. -/
theorem hostSuppliesWithinItsDuty : Obligations.HostSuppliesWithinItsDuty := by
  intro s words
  refine ⟨fun hshort => ⟨_, supply_eq_some_iff.mpr ⟨hshort, rfl⟩, rfl, List.length_append, fun k hk => ?_, fun k hk => ?_, ?_⟩,
    fun hlong => ?_⟩
  · exact List.getElem?_append_left hk
  · rw [List.getElem?_append_right (Nat.le_add_right _ _), Nat.add_sub_cancel_left]
  · intro hs
    have hlen : s.stream.length ≤ (s.stream ++ words).length := by simp
    exact { hs with
      streamShort := by rwa [List.length_append]
      cpInStream := Nat.le_trans hs.cpInStream hlen }
  · rw [Option.eq_none_iff_forall_ne_some]
    intro t ht
    exact absurd (supply_eq_some_iff.mp ht).1 (by omega)
end

section
/-! PROOFS. What a paint leaves in the cell of a pixel, and which dot a glyph has at a pixel (R113, R160, R164); so what the glyph commands
leave in every cell. -/

namespace Sys2Proof.Machine

section
variable {s : State} {dots : List Dot} {px py : Nat}

/-- The dots that hit the cell of a pixel inside an allocated surface are the dots at that pixel. -/
theorem Dot.hits_cellAddr {d : Dot} (hx : px < s.cfg.W.val) (hy : py < s.cfg.H.val) :
    d.hits s (cellAddr s.cfg px py) ↔ s.fbAlloc = true ∧ d.x = px ∧ d.y = py := by
  refine and_congr_right fun _ => ⟨fun hcell => ?_, fun ⟨hdx, hdy⟩ => by rw [hdx, hdy, cellOf_natCast, if_pos ⟨hx, hy⟩]⟩
  obtain ⟨hx0, hxW, hy0, -, haddr⟩ := cellOf_eq_some.mp hcell
  obtain ⟨rfl, rfl⟩ := cellAddr_inj hx (by omega) haddr
  exact ⟨by omega, by omega⟩

/-- A pixel that is painted, and in one colour only, has that colour (R113). -/
theorem memRead_paint_pixel (hs : s.fb.wf = true) (halloc : s.fbAlloc = true) (hx : px < s.cfg.W.val) (hy : py < s.cfg.H.val)
    {c : Word} (hmem : ⟨px, py, c⟩ ∈ dots) (honly : ∀ c', ⟨px, py, c'⟩ ∈ dots → c' = c) :
    (s.paint dots).memRead (cellAddr s.cfg px py) = c := by
  refine memRead_paint_of_hit hs ⟨_, hmem, (Dot.hits_cellAddr hx hy).mpr ⟨halloc, rfl, rfl⟩⟩ fun d hd hhit => ?_
  obtain ⟨-, hdx, hdy⟩ := (Dot.hits_cellAddr hx hy).mp hhit
  exact honly d.c (by rw [← hdx, ← hdy]; exact hd)

/-- A pixel that is not painted is as before (R113). -/
theorem memRead_paint_other_pixel (hs : s.fb.wf = true) (hx : px < s.cfg.W.val) (hy : py < s.cfg.H.val)
    (hno : s.fbAlloc = true → ∀ c, ⟨px, py, c⟩ ∉ dots) :
    (s.paint dots).memRead (cellAddr s.cfg px py) = s.memRead (cellAddr s.cfg px py) := by
  refine memRead_paint_of_miss hs fun d hd hhit => ?_
  obtain ⟨halloc, hdx, hdy⟩ := (Dot.hits_cellAddr hx hy).mp hhit
  exact hno halloc d.c (by rw [← hdx, ← hdy]; exact hd)

/-- A paint leaves every address outside the surface (R68, R113). -/
theorem memRead_paint_outside (hs : s.fb.wf = true) {a : Nat} (ha : surfaceCells s.cfg ≤ a) :
    (s.paint dots).memRead a = s.memRead a := by
  refine memRead_paint_of_miss hs fun d _ hhit => ?_
  obtain ⟨hx0, hxW, hy0, hyH, haddr⟩ := cellOf_eq_some.mp hhit.2
  have hlt : cellAddr s.cfg d.x.toNat d.y.toNat < surfaceCells s.cfg := cellAddr_lt (by omega) (by omega)
  omega

end

/-- Offset `i` of block `b`, in a row of `n` blocks of size `k` from `x`, is in the row, and dividing by `k` finds the block. -/
theorem block_of_offset {x p n k b i : Nat} (hi : i < k) (hb : b < n) (hp : p = x + b * k + i) :
    (x ≤ p ∧ p < x + n * k) ∧ (p - x) / k = b := by
  have hend : (b + 1) * k ≤ n * k := Nat.mul_le_mul_right k hb
  rw [Nat.add_one_mul] at hend
  refine ⟨by omega, ?_⟩
  rw [hp, Nat.add_assoc, Nat.add_sub_cancel_left, Nat.mul_comm, Nat.mul_add_div (by omega), Nat.div_eq_of_lt hi, Nat.add_zero]

/-- Every position in a row of `n` blocks of size `k` from `x` lies at some offset of some block. -/
theorem offset_in_block {x p n k : Nat} (hk : 0 < k) (hp : x ≤ p ∧ p < x + n * k) :
    (p - x) / k < n ∧ (p - x) % k < k ∧ p = x + (p - x) / k * k + (p - x) % k := by
  refine ⟨(Nat.div_lt_iff_lt_mul hk).mpr (by omega), Nat.mod_lt _ hk, ?_⟩
  have hdiv := Nat.div_add_mod' (p - x) k
  omega

/-- The dot a glyph has at a pixel: one in its footprint, coloured by the glyph bit of the block the pixel lies in (R160, R164, R165). -/
theorem mem_glyphDots_pixel {g : Glyph} {x y : Nat} {fg bg c : Word} {k px py : Nat} (hk : 0 < k) :
    (⟨px, py, c⟩ : Dot) ∈ glyphDots g x y fg bg k ↔
      (x ≤ px ∧ px < x + 8 * k) ∧ (y ≤ py ∧ py < y + 16 * k)
        ∧ ((glyphBit g ((py - y) / k) ((px - x) / k) = true ∧ c = fg)
          ∨ (glyphBit g ((py - y) / k) ((px - x) / k) = false ∧ bg ≠ 0#16 ∧ c = bg)) := by
  rw [mem_glyphDots]
  constructor
  · rintro ⟨row, col, j, i, hrow, hcol, hj, hi, hx, hy, hc⟩
    obtain ⟨hpx, rfl⟩ := block_of_offset hi hcol (Int.ofNat.inj hx)
    obtain ⟨hpy, rfl⟩ := block_of_offset hj hrow (Int.ofNat.inj hy)
    exact ⟨hpx, hpy, hc⟩
  · rintro ⟨hpx, hpy, hc⟩
    obtain ⟨hcol, hi, hx⟩ := offset_in_block hk hpx
    obtain ⟨hrow, hj, hy⟩ := offset_in_block hk hpy
    exact ⟨_, _, _, _, hrow, hcol, hj, hi, congrArg Int.ofNat hx, congrArg Int.ofNat hy, hc⟩

/-- What a glyph leaves in the cell of a pixel inside the surface (R160, R164, R165). -/
theorem memRead_blit_pixel {s : State} (hs : s.fb.wf = true) (x y : Nat) (cpt fg bg : Word) {k px py : Nat} (hk : 0 < k)
    (hx : px < s.cfg.W.val) (hy : py < s.cfg.H.val) :
    (s.blit x y cpt fg bg k).memRead (cellAddr s.cfg px py) =
      if s.fbAlloc = true ∧ (x ≤ px ∧ px < x + 8 * k) ∧ (y ≤ py ∧ py < y + 16 * k) then
        if glyphBit (glyphOf s.cfg cpt) ((py - y) / k) ((px - x) / k) = true then fg
        else if bg ≠ 0#16 then bg else s.memRead (cellAddr s.cfg px py)
      else s.memRead (cellAddr s.cfg px py) := by
  unfold State.blit
  split
  case isFalse hout =>
    refine memRead_paint_other_pixel hs hx hy fun halloc c hc => hout ?_
    obtain ⟨hpx, hpy, -⟩ := (mem_glyphDots_pixel hk).mp hc
    exact ⟨halloc, hpx, hpy⟩
  case isTrue hin =>
    obtain ⟨halloc, hpx, hpy⟩ := hin
    split
    case isTrue hbit =>
      refine memRead_paint_pixel hs halloc hx hy ((mem_glyphDots_pixel hk).mpr ⟨hpx, hpy, .inl ⟨hbit, rfl⟩⟩) fun c hc => ?_
      simpa [hbit] using ((mem_glyphDots_pixel hk).mp hc).2.2
    case isFalse hbit =>
      rw [Bool.not_eq_true] at hbit
      split
      case isTrue hbg =>
        refine memRead_paint_pixel hs halloc hx hy ((mem_glyphDots_pixel hk).mpr ⟨hpx, hpy, .inr ⟨hbit, hbg, rfl⟩⟩) fun c hc => ?_
        simpa [hbit, hbg] using ((mem_glyphDots_pixel hk).mp hc).2.2
      case isFalse hbg =>
        refine memRead_paint_other_pixel hs hx hy fun _ c hc => ?_
        simpa [hbit, hbg] using ((mem_glyphDots_pixel hk).mp hc).2.2

/-- Both glyph commands are one blit, at a scale of at least 1 (R85, R172, R173). -/
theorem exec_glyph {x y cpt fg bg : Word} {aux : Byte} {i : Instr} {k : Nat} (s : State)
    (hi : (i = .fbDrawChar x y cpt fg bg ∧ k = 1) ∨ (i = .fbDrawCharScaled x y cpt fg bg aux ∧ k = min (max aux.toNat 1) 8)) :
    0 < k ∧ exec i s = .next (s.blit x.toNat y.toNat cpt fg bg k) := by
  obtain ⟨rfl, rfl⟩ | ⟨rfl, rfl⟩ := hi
  · exact ⟨by decide, rfl⟩
  · exact ⟨by omega, rfl⟩

end Sys2Proof.Machine

open Sys2Proof Sys2Proof.Machine

/-- Settles O39: the command is one blit, whose dot at each pixel is known. -/
theorem charPaintsGlyphBits : Obligations.CharPaintsGlyphBits := by
  intro s x y cpt fg bg aux hs i k hi
  obtain ⟨hk, hexec⟩ := exec_glyph s hi
  exact ⟨_, hexec, blit_sameButCells .., fun px py hx hy => memRead_blit_pixel hs _ _ cpt fg bg hk hx hy,
    fun a ha => memRead_paint_outside hs ha⟩
end

section
/-! PROOFS. What FB_INIT leaves in each of its four cases, the cell FB_SET_PIXEL writes and FB_GET_PIXEL reads, the commands that keep the
surface, and what a drawing command does while no surface is allocated (R110 to R117); so the statements of 40_surface.md. -/

namespace Sys2Proof.Machine

/-! FB_INIT (R110, R111). -/

theorem fitsPool_iff {cfg : Config} :
    fitsPool cfg = true ↔ ∃ cap, cfg.staticCap = some cap ∧ cfg.W.val * cfg.H.val ≤ cap.val := by
  unfold fitsPool surfaceCells
  cases cfg.staticCap <;> simp

section
variable {s : State}

theorem initSurface_of_allocated (ha : s.fbAlloc = true) : s.initSurface = s.clearSurface.setResult 1#16 := by
  simpa [ha] using initSurface_cases s

theorem initSurface_of_fits (ha : s.fbAlloc = false) (hfit : fitsPool s.cfg = true) :
    s.initSurface = s.usePool.clearSurface.setResult 1#16 := by
  simpa [ha, hfit] using initSurface_cases s

theorem initSurface_of_granted (ha : s.fbAlloc = false) (hfit : fitsPool s.cfg = false) (hans : s.allocAnswer = true) :
    s.initSurface = s.drawAlloc.useFreshStore.clearSurface.setResult 1#16 := by
  simpa [ha, hfit, hans] using initSurface_cases s

theorem initSurface_of_refused (ha : s.fbAlloc = false) (hfit : fitsPool s.cfg = false) (hans : s.allocAnswer = false) :
    s.initSurface = s.drawAlloc.setResult 0#16 := by
  simpa [ha, hfit, hans] using initSurface_cases s

/-- FB_INIT answers 1 in all cases but a refused allocation. -/
theorem initSurface_result_eq_one_iff :
    s.initSurface.result = 1#16 ↔ s.fbAlloc = true ∨ fitsPool s.cfg = true ∨ s.allocAnswer = true := by
  rcases initSurface_cases s with ⟨ha, h⟩ | ⟨-, hfit, h⟩ | ⟨-, -, hans, h⟩ | ⟨ha, hfit, hans, h⟩ <;> rw [h]
  · simp [ha]
  · simp [hfit]
  · simp [hans]
  · simp [ha, hfit, hans]

/-- An FB_INIT that answers 1 leaves every cell of the surface clear, whichever store the surface uses. -/
theorem memRead_initSurface (hres : s.initSurface.result = 1#16) {a : Nat} (ha : a < surfaceCells s.cfg) :
    s.initSurface.memRead a = 0#16 := by
  have hclear : ∀ t : State, t.cfg = s.cfg → (t.clearSurface.setResult 1#16).memRead a = 0#16 := fun t ht =>
    (memRead_clearSurface t a).trans (if_pos (ht ▸ ha))
  rcases initSurface_cases s with ⟨-, h⟩ | ⟨-, -, h⟩ | ⟨-, -, -, h⟩ | ⟨-, -, -, h⟩ <;> rw [h] at hres ⊢
  · exact hclear s rfl
  · exact hclear s.usePool rfl
  · exact hclear s.drawAlloc.useFreshStore rfl
  · simp at hres

/-! FB_SET_PIXEL and FB_GET_PIXEL (R113 to R115). -/

/-- The cell of a pixel operand pair. -/
theorem cellOf_coord_eq_some {cfg : Config} {x y : Word} {a : Nat} :
    cellOf cfg (coord x) (coord y) = some a ↔
      x.toNat < cfg.W.val ∧ y.toNat < cfg.H.val ∧ a = y.toNat * cfg.W.val + x.toNat := by
  simp [coord, cellOf_natCast, cellAddr, and_assoc, eq_comm]

theorem plot_outside {x y : Word} (h : s.cfg.W.val ≤ x.toNat ∨ s.cfg.H.val ≤ y.toNat) (c : Word) :
    s.plot (coord x) (coord y) c = s := by
  have hcell : cellOf s.cfg (coord x) (coord y) = none :=
    Option.eq_none_iff_forall_ne_some.mpr fun a ha => by
      obtain ⟨hx, hy, -⟩ := cellOf_coord_eq_some.mp ha
      omega
  simp [State.plot, hcell]

theorem exec_fbGetPixel {x y v : Word} (h : s.getPixel x.toNat y.toNat = v) : exec (.fbGetPixel x y) s = .next (s.setResult v) :=
  h ▸ rfl

theorem getPixel_outside {x y : Nat} (h : s.cfg.W.val ≤ x ∨ s.cfg.H.val ≤ y) : s.getPixel x y = 0#16 := if_neg (by omega)

theorem getPixel_unallocated (ha : s.fbAlloc = false) (x y : Nat) : s.getPixel x y = 0#16 := if_neg (by simp [ha])

theorem getPixel_inside {x y : Nat} (ha : s.fbAlloc = true) (hx : x < s.cfg.W.val) (hy : y < s.cfg.H.val) :
    s.getPixel x y = s.memRead (cellAddr s.cfg x y) := if_pos ⟨ha, hx, hy⟩

/-- A pixel that was just set reads back (R119). -/
theorem getPixel_plot {x y : Nat} (hs : s.fb.wf = true) (ha : s.fbAlloc = true) (hx : x < s.cfg.W.val) (hy : y < s.cfg.H.val)
    (c : Word) : (s.plot x y c).getPixel x y = c := by
  rw [plot_of_inside ha hx hy]
  calc (s.memWrite (cellAddr s.cfg x y) c).getPixel x y
    _ = (s.memWrite (cellAddr s.cfg x y) c).memRead (cellAddr s.cfg x y) := getPixel_inside ha hx hy
    _ = c := (memRead_memWrite hs ..).trans (if_pos rfl)

end

/-! What keeps the surface (R116). -/

/-- `t` has `s`'s cells, in both stores, and its allocation. -/
structure SameSurface (s t : State) : Prop where
  dynCells : t.dynCells = s.dynCells
  poolCells : t.poolCells = s.poolCells
  fbAlloc : t.fbAlloc = s.fbAlloc
  fbStatic : t.fbStatic = s.fbStatic

theorem SameSurface.refl (s : State) : SameSurface s s := ⟨rfl, rfl, rfl, rfl⟩

theorem SameButResult.sameSurface {s t : State} (h : SameButResult s t) : SameSurface s t := by
  rw [h]
  exact { SameSurface.refl s with }

theorem SameButLink.sameSurface {s t : State} (h : SameButLink s t) : SameSurface s t := by
  rw [h]
  exact { SameSurface.refl s with }

/-- Every command but the drawing commands, FB_INIT and FB_RELEASE keeps the surface. -/
theorem exec_sameSurface {i : Instr} {s t : State} (h : exec i s = .next t) (hdraw : i.opcode ∉ drawingOpcodes)
    (hinit : i.opcode ≠ .fbInit) (hrelease : i.opcode ≠ .fbRelease) : SameSurface s t := by
  rcases exec_effect h with ⟨ho, -⟩ | ⟨ho, -⟩ | ⟨ho, -⟩ | ⟨ho, -⟩ | ⟨-, hresult⟩ | ⟨-, -, v, hlink⟩
    | ⟨-, hlink⟩ | ⟨-, -, hlink⟩ | ⟨-, ⟨-, rfl⟩ | ⟨-, rfl⟩⟩ | ⟨-, rfl⟩ | ⟨-, r, hlink⟩ | ⟨-, v, hlink⟩
  · exact absurd ho hinit
  · exact absurd ho hrelease
  · exact absurd ho hdraw
  · rcases ho with ho | ho <;> simp [ho, drawingOpcodes] at hdraw
  · exact hresult.sameSurface
  · exact { hlink.sameSurface with }
  · exact hlink.sameSurface
  · exact { hlink.sameSurface with }
  · exact { SameSurface.refl s with }
  · exact { SameSurface.refl s with }
  · exact { SameSurface.refl s with }
  · exact { hlink.sameSurface with }
  · exact { hlink.sameSurface with }

/-! No surface (R117), and strings that start malformed (R174). -/

/-- A string taken byte by byte does not fault, so with no store allocated it changes nothing. -/
theorem text_unallocated (x y fg bg : Word) (bytes : List Byte) (scale : Nat) {s : State} (ha : s.fbAlloc = false) :
    s.text x y fg bg bytes scale false = s := by
  rcases textFrom_unallocated y.toNat fg bg scale (codePoints false bytes) x.toNat ha with h | h
  · exact h
  · rcases textFrom_spec y.toNat fg bg scale (codePoints false bytes) x.toNat s with hcells | ⟨hmalformed, -⟩
    · rw [h] at hcells
      exact h.trans hcells.1
    · exact absurd hmalformed (none_not_mem_codePoints bytes)

/-- A leading continuation byte starts no UTF-8 form (R161, R162). -/
theorem utf8Decode_continuation {b : Byte} (hlo : 0x80 ≤ b.toNat) (hhi : b.toNat ≤ 0xBF) (rest : List Byte) :
    utf8Decode (b :: rest) = none :=
  (if_neg (by omega)).trans (if_neg (by omega))

/-- A string that starts malformed has no other code point (R161, R170). -/
theorem codePoints_malformed {b : Byte} {rest : List Byte} (hb : b ≠ 0#8) (h : utf8Decode (b :: rest) = none) :
    codePoints true (b :: rest) = [none] := by
  simp [codePoints, codePointsWithin, nextCodePoint, hb, h]

/-- A string that starts with a continuation byte faults before anything is drawn (R171, R174). -/
theorem text_continuation {b : Byte} (hlo : 0x80 ≤ b.toNat) (hhi : b.toNat ≤ 0xBF) (x y fg bg : Word) (rest : List Byte)
    (scale : Nat) (s : State) : s.text x y fg bg (b :: rest) scale true = s.raise .malformedUtf8 := by
  have hb : b ≠ 0#8 := by rintro rfl; simp at hlo
  rw [State.text, codePoints_malformed hb (utf8Decode_continuation hlo hhi rest), State.textFrom]

/-- FB_FILL_RECT has no cells to fill without a store (R117, R134). -/
theorem fillRect_unallocated {s : State} (ha : s.fbAlloc = false) (x y w h : Nat) (c : Word) :
    s.memFill (s.fillRectCells x y w h) c = s := by
  rw [State.fillRectCells, if_pos ha, State.memFill, List.foldl_nil]

/-- With no store allocated a drawing command without a UTF-8 string changes nothing. -/
theorem exec_drawing_unallocated {i : Instr} {s : State} (ha : s.fbAlloc = false) (hi : i.opcode ∈ drawingOpcodes)
    (hutf8 : ¬ (i.opcode = .fbDrawStringUtf8 ∨ i.opcode = .fbDrawStringUtf8Scaled)) : exec i s = .next s := by
  cases i with
  | fbSetPixel x y c => exact congrArg _ (paint_unallocated [⟨coord x, coord y, c⟩] ha)
  | fbDrawLine | fbDrawRect | fbDrawCircle | fbFillCircle | fbDrawChar | fbDrawCharScaled =>
    exact congrArg _ (paint_unallocated _ ha)
  | fbFillRect => exact congrArg _ (fillRect_unallocated ha ..)
  | fbDrawString | fbDrawStringScaled => exact congrArg _ (text_unallocated _ _ _ _ _ _ ha)
  | _ => simp [drawingOpcodes, Instr.opcode] at hi hutf8

/-- With no store allocated a UTF-8 string command changes nothing, or takes MalformedUtf8 (R174). -/
theorem exec_utf8_unallocated {i : Instr} {s : State} (ha : s.fbAlloc = false)
    (hi : i.opcode = .fbDrawStringUtf8 ∨ i.opcode = .fbDrawStringUtf8Scaled) :
    exec i s = .next s ∨ exec i s = .next (s.raise .malformedUtf8) := by
  cases i with
  | fbDrawStringUtf8 | fbDrawStringUtf8Scaled =>
    exact (textFrom_unallocated _ _ _ _ _ _ ha).imp (congrArg _) (congrArg _)
  | _ => simp [Instr.opcode] at hi

end Sys2Proof.Machine

open Sys2Proof Sys2Proof.Machine

/-- Settles O20: the ten commands are none of those that draw, allocate or release; and FB_RELEASE itself drops dynamic cells only. -/
theorem onlyDrawingCommandsChangeCells : Obligations.OnlyDrawingCommandsChangeCells := by
  intro i s t h
  constructor
  · intro hi
    have hother : i.opcode ∉ drawingOpcodes ∧ i.opcode ≠ .fbInit ∧ i.opcode ≠ .fbRelease := by
      revert hi
      cases i.opcode <;> decide
    obtain ⟨hdraw, hinit, hrelease⟩ := hother
    obtain ⟨hdyn, hpool, halloc, hstatic⟩ := exec_sameSurface h hdraw hinit hrelease
    exact ⟨hdyn, hpool, halloc, hstatic⟩
  · intro hi
    cases i <;> cases hi
    cases h
    rfl

/-- Settles O21: plots change nothing without a surface, and a string faults at its first malformed sequence only. -/
theorem unallocatedSurfaceIsANoOp : Obligations.UnallocatedSurfaceIsANoOp := by
  intro s ha
  refine ⟨fun i hi => ?_, fun x y => ?_, fun i hi => exec_utf8_unallocated ha hi, fun x y fg bg b bytes scale hlo hhi => ?_⟩
  · have hplain : i.opcode ∈ drawingOpcodes ∧ ¬ (i.opcode = .fbDrawStringUtf8 ∨ i.opcode = .fbDrawStringUtf8Scaled) := by
      revert hi
      cases i.opcode <;> decide
    obtain ⟨hdraw, hutf8⟩ := hplain
    exact exec_drawing_unallocated ha hdraw hutf8
  · exact exec_fbGetPixel (getPixel_unallocated ha ..)
  · exact ⟨congrArg _ (text_continuation hlo hhi ..), congrArg _ (text_continuation hlo hhi ..)⟩

/-- Settles O26: the next state of each of FB_INIT's four cases, and the clear surface of the three that answer 1. -/
theorem fbInitAllocatesAndClears : Obligations.FbInitAllocatesAndClears := by
  intro s
  refine ⟨s.initSurface, rfl, ?_⟩
  intro cells fits
  have hfits : fits ↔ fitsPool s.cfg = true := fitsPool_iff.symm
  have hnofit : ¬ fits → fitsPool s.cfg = false := fun h => Bool.eq_false_iff.mpr (mt hfits.mpr h)
  refine ⟨fun hcase a hlt => ?_, fun ha => ?_, fun ha hfit => ?_, fun ha hno hans => ?_, fun ha hno hans => ?_⟩
  · rw [hfits] at hcase
    exact memRead_initSurface (initSurface_result_eq_one_iff.mpr hcase) hlt
  · rw [initSurface_of_allocated ha]
    obtain ⟨-, hdyn, hpool⟩ := clearSurface_sameButCells s
    exact ⟨rfl, hdyn, hpool, fun a hle => (memRead_clearSurface s a).trans (if_neg (Nat.not_lt.mpr hle))⟩
  · rw [initSurface_of_fits ha (hfits.mp hfit)]
    exact ⟨rfl, fun a hle => (Store.read_clearBelow ..).trans (if_neg (Nat.not_lt.mpr hle))⟩
  · rw [initSurface_of_granted ha (hnofit hno) hans]
    rfl
  · rw [initSurface_of_refused ha (hnofit hno) hans]
    rfl

/-- Settles O28: FB_SET_PIXEL is one plot, and the operands' pixel has one cell. -/
theorem setPixelWritesItsCell : Obligations.SetPixelWritesItsCell := fun _ _ _ c hs =>
  ⟨_, rfl, plot_sameButCells .., fun a =>
    (memRead_plot hs _ _ c a).trans
      (ite_congr (propext (and_congr_right fun _ => cellOf_coord_eq_some)) (fun _ => rfl) fun _ => rfl)⟩

/-- Settles O30: a pixel off the surface has no cell, a plotted cell reads back, a release after a release finds nothing, and
an FB_INIT that answers 1 clears. -/
theorem surfaceLaws : Obligations.SurfaceLaws := by
  refine ⟨fun s x y c hout => ⟨?_, ?_⟩, fun _ x y v hs ha hx hy => ?_, fun _ => ?_, fun _ => ?_⟩
  · exact congrArg _ (plot_outside hout c)
  · exact exec_fbGetPixel (getPixel_outside hout)
  · exact ⟨_, _, rfl, rfl, getPixel_plot hs ha hx hy v⟩
  · exact ⟨_, _, rfl, rfl, rfl, rfl, rfl, rfl⟩
  · exact ⟨_, _, rfl, rfl, fun hres _ hlt => memRead_initSurface hres hlt⟩

/-- Settles O27: the release is the model's `dropStore`. -/
theorem fbReleaseDropsTheStore : Obligations.FbReleaseDropsTheStore := fun _ => rfl

/-- Settles O29: the value read is the model's `getPixel`. -/
theorem getPixelReadsItsCell : Obligations.GetPixelReadsItsCell := fun _ _ _ => rfl
end

section
/-! PROOFS. What the five shape commands leave in every cell: the shape's pixels inside the surface hold the colour, and everything else
is as before (R130, R131, R133 to R135, R137). -/

namespace Sys2Proof.Machine

/-- What a plotted shape leaves in the cell of a pixel inside the surface, when `P` says that the shape has the pixel (R113, R130). -/
theorem memRead_plotAll_pixel {s : State} (hs : s.fb.wf = true) {pixels : List (Int × Int)} (c : Word) {px py : Nat}
    (hx : px < s.cfg.W.val) (hy : py < s.cfg.H.val) {P : Prop} [Decidable P] (hP : ((px : Int), (py : Int)) ∈ pixels ↔ P) :
    (s.plotAll pixels c).memRead (cellAddr s.cfg px py) =
      if s.fbAlloc = true ∧ P then c else s.memRead (cellAddr s.cfg px py) :=
  ((plotAll_painted pixels c hs).cell.1 px py hx hy).trans
    (ite_congr (propext (and_congr_right fun _ => hP)) (fun _ => rfl) fun _ => rfl)

/-- The perimeter of a rectangle, at a pixel of the surface (R133). -/
theorem natCast_mem_rectPixels {x y px py w h : Nat} :
    ((px : Int), (py : Int)) ∈ rectPixels x y w h ↔
      (x ≤ px ∧ px < x + w) ∧ (y ≤ py ∧ py < y + h) ∧ (px = x ∨ px + 1 = x + w ∨ py = y ∨ py + 1 = y + h) := by
  rw [mem_rectPixels]
  omega

theorem mem_rectInside {x y w h px py : Nat} :
    (px, py) ∈ rectInside x y w h ↔ (x ≤ px ∧ px < x + w) ∧ (y ≤ py ∧ py < y + h) := by
  simp only [rectInside, List.mem_flatMap, List.mem_map, List.mem_range, Prod.mk.injEq]
  constructor
  · rintro ⟨j, hj, i, hi, rfl, rfl⟩
    omega
  · rintro ⟨hx, hy⟩
    exact ⟨py - y, by omega, px - x, by omega, by omega, by omega⟩

/-- The pixels of a filled rectangle, as the coordinates a plot takes. -/
def fillPixels (x y w h : Nat) : List (Int × Int) := (rectInside x y w h).map fun p => ((p.1 : Int), (p.2 : Int))

theorem natCast_mem_fillPixels {x y w h px py : Nat} :
    ((px : Int), (py : Int)) ∈ fillPixels x y w h ↔ (x ≤ px ∧ px < x + w) ∧ (y ≤ py ∧ py < y + h) := by
  rw [← mem_rectInside, fillPixels, List.mem_map]
  constructor
  · rintro ⟨⟨i, j⟩, hmem, heq⟩
    obtain ⟨hi, hj⟩ := Prod.mk.inj heq
    rwa [← Int.ofNat.inj hi, ← Int.ofNat.inj hj]
  · exact fun hmem => ⟨_, hmem, rfl⟩

/-- Filling a rectangle that fits is plotting its pixels (R134). -/
theorem fillRect_eq_plotAll {s : State} (ha : s.fbAlloc = true) {x y w h : Nat} (hx : x + w ≤ s.cfg.W.val)
    (hy : y + h ≤ s.cfg.H.val) (c : Word) : s.memFill (s.fillRectCells x y w h) c = s.plotAll (fillPixels x y w h) c := by
  rw [State.fillRectCells, if_neg (by simp [ha]), if_neg (by omega), rectCells_eq_map]
  refine memFill_eq_plotAll ha c _ fun ⟨px, py⟩ hp => ?_
  obtain ⟨hpx, hpy⟩ := mem_rectInside.mp hp
  exact ⟨by omega, by omega⟩

/-- A rectangle that does not fit has no cells to fill (R134). -/
theorem fillRect_rejected {s : State} {x y w h : Nat} (hout : s.cfg.W.val < x + w ∨ s.cfg.H.val < y + h) (c : Word) :
    s.memFill (s.fillRectCells x y w h) c = s := by
  rw [State.fillRectCells, if_pos hout, ite_self, State.memFill, List.foldl_nil]

/-- A number is no larger than one whose square is no smaller. -/
theorem natAbs_le_of_mul_self_le {d : Int} {r : Nat} (h : d * d ≤ (r : Int) * r) : d.natAbs ≤ r :=
  Nat.mul_self_le_mul_self_iff.mp (Int.ofNat_le.mp (by rwa [Int.natAbs_mul_self, Int.natCast_mul]))

theorem int_mul_self_nonneg (d : Int) : 0 ≤ d * d := by
  rw [← Int.natAbs_mul_self]
  exact Int.natCast_nonneg _

/-- The disc (R137): the scan's bounding box holds all of it. -/
theorem mem_diskPixels {cx cy px py : Int} {r : Nat} :
    (px, py) ∈ diskPixels cx cy r ↔ (px - cx) * (px - cx) + (py - cy) * (py - cy) ≤ (r : Int) * r := by
  simp only [diskPixels, List.mem_flatMap, List.mem_map, List.mem_filter, mem_diskOffsets, decide_eq_true_eq, Prod.mk.injEq]
  constructor
  · rintro ⟨dy, -, dx, ⟨-, hin⟩, rfl, rfl⟩
    rwa [show cx + dx - cx = dx by omega, show cy + dy - cy = dy by omega]
  · intro hin
    have hx := natAbs_le_of_mul_self_le (Int.le_trans (Int.le_add_of_nonneg_right (int_mul_self_nonneg (py - cy))) hin)
    have hy := natAbs_le_of_mul_self_le (Int.le_trans (Int.le_add_of_nonneg_left (int_mul_self_nonneg (px - cx))) hin)
    exact ⟨py - cy, by omega, px - cx, ⟨by omega, hin⟩, by omega, by omega⟩

end Sys2Proof.Machine

open Sys2Proof Sys2Proof.Machine

/-- Settles O31: both commands plot their shape's list of pixels. -/
theorem lineAndCirclePaintTheirPixels : Obligations.LineAndCirclePaintTheirPixels := fun _ hs =>
  ⟨fun _ _ _ _ c => ⟨_, rfl, plotAll_sameButCells .., plotAll_painted _ c hs⟩,
    fun _ _ _ c => ⟨_, rfl, plotAll_sameButCells .., plotAll_painted _ c hs⟩⟩

/-- Settles O34: the command plots the perimeter's pixels. -/
theorem drawRectPaintsThePerimeter : Obligations.DrawRectPaintsThePerimeter := fun _ _ _ _ _ c hs =>
  ⟨_, rfl, plotAll_sameButCells .., fun _ _ hx hy => memRead_plotAll_pixel hs c hx hy natCast_mem_rectPixels,
    (plotAll_painted _ c hs).cell.2⟩

/-- Settles O35: a rectangle that fits is plotted whole, and any other has no cells to fill. -/
theorem fillRectIsAllOrNothing : Obligations.FillRectIsAllOrNothing := by
  refine fun s x y w h c hs => ⟨?_, fun ha hx hy => ⟨_, rfl, memFill_sameButCells .., ?_⟩⟩
  · rintro (ha | hout)
    · exact congrArg _ (fillRect_unallocated ha ..)
    · exact congrArg _ (fillRect_rejected hout c)
  · rw [fillRect_eq_plotAll ha hx hy]
    refine ⟨fun px py hpx hpy => ?_, (plotAll_painted _ c hs).cell.2⟩
    exact (memRead_plotAll_pixel hs c hpx hpy natCast_mem_fillPixels).trans
      (ite_congr (propext (and_iff_right ha)) (fun _ => rfl) fun _ => rfl)

/-- Settles O37: the command plots the disc's pixels. -/
theorem fillCirclePaintsTheDisc : Obligations.FillCirclePaintsTheDisc := fun _ _ _ _ c hs =>
  ⟨_, rfl, plotAll_sameButCells .., fun _ _ hx hy => memRead_plotAll_pixel hs c hx hy mem_diskPixels,
    (plotAll_painted _ c hs).cell.2⟩
end

section
/-! PROOFS. The laws of a line's pixels. R131's loop has a closed form, `lineRise`: the minor coordinate's steps after each turn. The laws
hold of a line that R131 walks as it is given, and its two exchanges carry them to every line (R131, R132). -/

namespace Sys2Proof.Machine

/-! The loop of R131. -/

/-- How often the minor coordinate has stepped after `k` turns of R131's loop from `err`. -/
def lineRise (da db err : Int) (k : Nat) : Int := -((err - k * db) / da)

theorem lineRise_zero {da err : Int} (db : Int) (h0 : 0 ≤ err) (h1 : err < da) : lineRise da db err 0 = 0 := by
  simp [lineRise, Int.ediv_eq_zero_of_lt h0 h1]

theorem lineRise_succ (da db err : Int) (k : Nat) : lineRise da db err (k + 1) = lineRise da db (err - db) k := by
  rw [lineRise, lineRise, show err - ((k + 1 : Nat) : Int) * db = err - db - k * db by grind]

theorem lineRise_add_major {da : Int} (db err : Int) (k : Nat) (hda : 0 < da) :
    lineRise da db (err + da) k = lineRise da db err k - 1 := by
  unfold lineRise
  rw [show err + da - k * db = err - k * db + da by omega, Int.add_ediv_of_dvd_right (Int.dvd_refl da),
    Int.ediv_self (Int.ne_of_gt hda)]
  omega

/-- R131's loop in closed form: while `err` is in range, turn `k` plots the minor coordinate after `lineRise` steps. -/
theorem lineWalk_eq_map {da db : Int} (bstep : Int) (hdb0 : 0 ≤ db) (hdb : db ≤ da) (n : Nat) (a b : Int) {err : Int}
    (h0 : 0 ≤ err) (h1 : err < da) :
    lineWalk da db bstep n a b err = (List.range n).map fun k : Nat => (a + k, b + bstep * lineRise da db err k) := by
  induction n generalizing a b err with
  | zero => rfl
  | succ n ih =>
    have hrest : ∀ {b' err' : Int}, 0 ≤ err' → err' < da →
        (∀ k, b' + bstep * lineRise da db err' k = b + bstep * lineRise da db err (k + 1)) →
        lineWalk da db bstep n (a + 1) b' err'
          = (List.range n).map fun k : Nat => (a + (k + 1 : Nat), b + bstep * lineRise da db err (k + 1)) := by
      intro b' err' h0' h1' hrise
      rw [ih _ _ h0' h1']
      exact List.map_congr_left fun k _ => Prod.ext (show a + 1 + (k : Int) = a + (k + 1 : Nat) by omega) (hrise k)
    rw [lineWalk, List.range_succ_eq_map, List.map_cons, List.map_map]
    refine List.cons_eq_cons.mpr ⟨by simp [lineRise_zero db h0 h1], ?_⟩
    split
    case isTrue hneg =>
      refine hrest (by omega) (by omega) fun k => ?_
      rw [lineRise_succ, lineRise_add_major db _ k (by omega)]
      grind
    case isFalse hpos => exact hrest (by omega) (by omega) fun k => by rw [lineRise_succ]

/-- The error that R131's loop starts from is in range: it calls for no step yet. -/
theorem half_ediv_self {da : Int} (hda : 0 ≤ da) : da / 2 / da = 0 := by
  rcases Int.lt_or_eq_of_le hda with hda | rfl
  · exact Int.ediv_eq_zero_of_lt (by omega) (by omega)
  · rfl

section
variable {da db : Int} (hdb0 : 0 ≤ db) (hdb : db ≤ da) (k : Nat)
include hdb0 hdb

/-- After as many turns as the major extent, the minor coordinate has gone the whole minor extent. -/
theorem lineRise_end : lineRise da db (da / 2) da.toNat = db := by
  unfold lineRise
  rcases Int.lt_or_eq_of_le (Int.le_trans hdb0 hdb) with hda | rfl
  · rw [Int.toNat_of_nonneg (by omega), Int.sub_mul_ediv_left _ _ (by omega), half_ediv_self (by omega)]
    omega
  · rw [Int.ediv_zero]
    omega

/-- Each turn steps the minor coordinate at most once. -/
theorem lineRise_step (err : Int) :
    lineRise da db err k ≤ lineRise da db err (k + 1) ∧ lineRise da db err (k + 1) ≤ lineRise da db err k + 1 := by
  rcases Int.lt_or_eq_of_le (Int.le_trans hdb0 hdb) with hda | rfl
  case inr => simp [lineRise]
  have hlast : lineRise da db (err - da) k = lineRise da db err k + 1 := by
    have h := lineRise_add_major db (err - da) k hda
    rw [Int.sub_add_cancel] at h
    omega
  rw [lineRise_succ, ← hlast]
  constructor <;> exact Int.neg_le_neg (Int.ediv_le_ediv hda (by omega))

/-- The rise after `k` turns is within one half of the true line's, `k * db / da`. -/
theorem lineRise_near : 2 * (lineRise da db (da / 2) k * da - k * db).natAbs ≤ da := by
  rcases Int.lt_or_eq_of_le (Int.le_trans hdb0 hdb) with hda | rfl
  case inr =>
    obtain rfl : db = 0 := by omega
    simp
  have hdiv := Int.emod_add_mul_ediv (da / 2 - k * db) da
  have hlo := Int.emod_nonneg (da / 2 - k * db) (Int.ne_of_gt hda)
  have hhi := Int.emod_lt_of_pos (da / 2 - k * db) hda
  rw [lineRise, Int.neg_mul, Int.mul_comm _ da]
  omega

end

/-- `bstep` (R131). -/
def lineDir (b0 b1 : Int) : Int := if b0 < b1 then 1 else -1

theorem natAbs_lineDir (b0 b1 : Int) : (lineDir b0 b1).natAbs = 1 := by
  unfold lineDir
  split <;> rfl

theorem lineDir_mul_natAbs (b0 b1 : Int) : lineDir b0 b1 * (b1 - b0).natAbs = b1 - b0 := by
  unfold lineDir
  split <;> omega

/-- Pixel `k` of a line that is walked along x from `(x0, y0)`. -/
def linePoint (x0 y0 x1 y1 : Int) (k : Nat) : Int × Int :=
  (x0 + k, y0 + lineDir y0 y1 * lineRise (x1 - x0) (y1 - y0).natAbs ((x1 - x0) / 2) k)

/-- The line is walked along x from its first endpoint: R131 exchanges nothing. -/
structure LineGentle (x0 y0 x1 y1 : Int) : Prop where
  minor_le : ((y1 - y0).natAbs : Int) ≤ x1 - x0

section
variable {x0 y0 x1 y1 : Int} (h : LineGentle x0 y0 x1 y1)
include h

theorem LineGentle.major_nonneg : 0 ≤ x1 - x0 := Int.le_trans (Int.natCast_nonneg _) h.minor_le

theorem LineGentle.not_steep : lineSteep x0 y0 x1 y1 = false := by
  have hle := h.minor_le
  exact decide_eq_false (by omega)

theorem LineGentle.linePixels_eq :
    linePixels x0 y0 x1 y1 = (List.range ((x1 - x0).toNat + 1)).map (linePoint x0 y0 x1 y1) := by
  have hends : lineEnds x0 y0 x1 y1 = ((x0, y0), (x1, y1)) := by
    simp only [lineEnds, h.not_steep, Bool.false_eq_true, if_false]
    exact if_neg (by have hda := h.major_nonneg; omega)
  have hwalk : lineWalk (x1 - x0) (y1 - y0).natAbs (lineDir y0 y1) ((x1 - x0).toNat + 1) x0 y0 ((x1 - x0) / 2)
      = (List.range ((x1 - x0).toNat + 1)).map (linePoint x0 y0 x1 y1) := by
    rcases Int.lt_or_eq_of_le h.major_nonneg with hda | hda
    · exact lineWalk_eq_map _ (Int.natCast_nonneg _) h.minor_le _ x0 y0 (by omega) (by omega)
    · simp [← hda, lineWalk, linePoint, lineRise]
  simpa only [linePixels, hends, lineDir, h.not_steep, Bool.false_eq_true, if_false, List.map_id'] using hwalk

theorem LineGentle.linePoint_zero : linePoint x0 y0 x1 y1 0 = (x0, y0) := by
  simp [linePoint, lineRise, half_ediv_self h.major_nonneg]

theorem LineGentle.linePoint_last : linePoint x0 y0 x1 y1 (x1 - x0).toNat = (x1, y1) := by
  rw [linePoint, lineRise_end (Int.natCast_nonneg _) h.minor_le, lineDir_mul_natAbs, Int.toNat_of_nonneg h.major_nonneg,
    Int.add_comm x0, Int.add_comm y0, Int.sub_add_cancel, Int.sub_add_cancel]

theorem LineGentle.linePoint_step (k : Nat) : (linePoint x0 y0 x1 y1 (k + 1)).1 = (linePoint x0 y0 x1 y1 k).1 + 1
    ∧ ((linePoint x0 y0 x1 y1 (k + 1)).2 - (linePoint x0 y0 x1 y1 k).2).natAbs ≤ 1 := by
  obtain ⟨hlo, hhi⟩ := lineRise_step (Int.natCast_nonneg _) h.minor_le k ((x1 - x0) / 2)
  simp only [linePoint]
  refine ⟨by omega, ?_⟩
  rw [Int.add_sub_add_left, ← Int.mul_sub, Int.natAbs_mul, natAbs_lineDir]
  omega

/-- The pixel's distance from the true line is that of its rise. -/
theorem LineGentle.linePoint_near (k : Nat) :
    2 * (((linePoint x0 y0 x1 y1 k).2 - y0) * (x1 - x0) - ((linePoint x0 y0 x1 y1 k).1 - x0) * (y1 - y0)).natAbs ≤ x1 - x0 := by
  have hnear := lineRise_near (Int.natCast_nonneg _) h.minor_le k
  simp only [linePoint]
  generalize lineRise _ _ _ k = rise at hnear ⊢
  have hdir : (y0 + lineDir y0 y1 * rise - y0) * (x1 - x0) - (x0 + k - x0) * (y1 - y0)
      = lineDir y0 y1 * (rise * (x1 - x0) - k * (y1 - y0).natAbs) := by
    have hminor := lineDir_mul_natAbs y0 y1
    grind
  rwa [hdir, Int.natAbs_mul, natAbs_lineDir, Nat.one_mul]

end

/-! The two exchanges of R131. -/

theorem natAbs_sub_comm (i j : Int) : (i - j).natAbs = (j - i).natAbs := by rw [← Int.natAbs_neg, Int.neg_sub]

theorem lineSteep_comm (x0 y0 x1 y1 : Int) : lineSteep x1 y1 x0 y0 = lineSteep x0 y0 x1 y1 := by
  rw [lineSteep, lineSteep, natAbs_sub_comm, natAbs_sub_comm y0]

/-- A line and the line back have the same pixels, in the same order: R131 orders the ends by the major coordinate, where only a line
of one point has a tie (R132). -/
theorem linePixels_comm (x0 y0 x1 y1 : Int) : linePixels x1 y1 x0 y0 = linePixels x0 y0 x1 y1 := by
  have hends : lineEnds x1 y1 x0 y0 = lineEnds x0 y0 x1 y1 := by
    simp only [lineEnds, lineSteep]
    grind
  rw [linePixels, linePixels, hends, lineSteep_comm]

theorem linePixels_steep {x0 y0 x1 y1 : Int} (h : (x1 - x0).natAbs < (y1 - y0).natAbs) :
    linePixels x0 y0 x1 y1 = (linePixels y0 x0 y1 x1).map Prod.swap := by
  have hsteep : lineSteep x0 y0 x1 y1 = true := decide_eq_true h
  have hflat : lineSteep y0 x0 y1 x1 = false := decide_eq_false (Nat.lt_asymm h)
  simp [linePixels, lineEnds, hsteep, hflat, Prod.swap]

/-- What holds of the lines R131 walks as they are given, and of a line when it holds of the exchanged one, holds of every line. -/
theorem line_induction {P : Int → Int → Int → Int → Prop} (gentle : ∀ x0 y0 x1 y1, LineGentle x0 y0 x1 y1 → P x0 y0 x1 y1)
    (back : ∀ x0 y0 x1 y1, P x1 y1 x0 y0 → P x0 y0 x1 y1)
    (steep : ∀ x0 y0 x1 y1, (x1 - x0).natAbs < (y1 - y0).natAbs → P y0 x0 y1 x1 → P x0 y0 x1 y1) (x0 y0 x1 y1 : Int) :
    P x0 y0 x1 y1 := by
  have hflat : ∀ x0 y0 x1 y1, (y1 - y0).natAbs ≤ (x1 - x0).natAbs → P x0 y0 x1 y1 := by
    intro x0 y0 x1 y1 h
    rcases Int.le_total x0 x1 with hx | hx
    · exact gentle _ _ _ _ ⟨by omega⟩
    · exact back _ _ _ _ (gentle _ _ _ _ ⟨by omega⟩)
  rcases Nat.lt_or_ge (x1 - x0).natAbs (y1 - y0).natAbs with h | h
  · exact steep _ _ _ _ h (hflat _ _ _ _ (Nat.le_of_lt h))
  · exact hflat _ _ _ _ h

/-! The laws of R132, and the distance from the true line. -/

theorem length_linePixels (x0 y0 x1 y1 : Int) :
    (linePixels x0 y0 x1 y1).length = max (x1 - x0).natAbs (y1 - y0).natAbs + 1 := by
  induction x0, y0, x1, y1 using line_induction with
  | gentle x0 y0 x1 y1 h =>
    have hle := h.minor_le
    rw [h.linePixels_eq, List.length_map, List.length_range]
    omega
  | back x0 y0 x1 y1 ih => rw [← linePixels_comm, ih, natAbs_sub_comm, natAbs_sub_comm y0]
  | steep x0 y0 x1 y1 h ih => rw [linePixels_steep h, List.length_map, ih, Nat.max_comm]

/-- The list of pixels runs from one of the points to the other. -/
def RunsBetween (pixels : List (Int × Int)) (p q : Int × Int) : Prop :=
  (pixels.head? = some p ∧ pixels.getLast? = some q) ∨ (pixels.head? = some q ∧ pixels.getLast? = some p)

theorem linePixels_runsBetween (x0 y0 x1 y1 : Int) : RunsBetween (linePixels x0 y0 x1 y1) (x0, y0) (x1, y1) := by
  induction x0, y0, x1, y1 using line_induction with
  | gentle x0 y0 x1 y1 h =>
    refine .inl ⟨?_, ?_⟩
    · rw [h.linePixels_eq, List.range_succ_eq_map, List.map_cons, List.head?_cons, h.linePoint_zero]
    · rw [h.linePixels_eq, List.range_succ, List.map_append, List.map_singleton, List.getLast?_concat, h.linePoint_last]
  | back x0 y0 x1 y1 ih => exact linePixels_comm x0 y0 x1 y1 ▸ ih.symm
  | steep x0 y0 x1 y1 h ih =>
    rw [linePixels_steep h]
    refine ih.imp ?_ ?_ <;> rintro ⟨hhead, hlast⟩ <;> simp [hhead, hlast]

/-- From `p` the line goes on to `q`: by one along its major axis, and by at most one along the other. -/
def LineStep (steep : Prop) [Decidable steep] (p q : Int × Int) : Prop :=
  if steep then q.2 = p.2 + 1 ∧ (q.1 - p.1).natAbs ≤ 1 else q.1 = p.1 + 1 ∧ (q.2 - p.2).natAbs ≤ 1

theorem linePixels_step (x0 y0 x1 y1 : Int) : ∀ {k : Nat} {p q : Int × Int}, (linePixels x0 y0 x1 y1)[k]? = some p →
    (linePixels x0 y0 x1 y1)[k + 1]? = some q → LineStep ((x1 - x0).natAbs < (y1 - y0).natAbs) p q := by
  induction x0, y0, x1, y1 using line_induction with
  | gentle x0 y0 x1 y1 h =>
    intro k p q hp hq
    rw [h.linePixels_eq, List.getElem?_map, Option.map_eq_some_iff] at hp hq
    obtain ⟨i, hi, rfl⟩ := hp
    obtain ⟨j, hj, rfl⟩ := hq
    obtain ⟨-, rfl⟩ := List.getElem?_eq_some_iff.mp hi
    obtain ⟨-, rfl⟩ := List.getElem?_eq_some_iff.mp hj
    rw [LineStep, if_neg (of_decide_eq_false h.not_steep), List.getElem_range, List.getElem_range]
    exact h.linePoint_step k
  | back x0 y0 x1 y1 ih =>
    rwa [← linePixels_comm, natAbs_sub_comm, natAbs_sub_comm y1]
  | steep x0 y0 x1 y1 h ih =>
    intro k p q hp hq
    rw [linePixels_steep h, List.getElem?_map, Option.map_eq_some_iff] at hp hq
    obtain ⟨p, hp, rfl⟩ := hp
    obtain ⟨q, hq, rfl⟩ := hq
    have hstep := ih hp hq
    rw [LineStep, if_neg (Nat.lt_asymm h)] at hstep
    rwa [LineStep, if_pos h]

theorem linePixels_near (x0 y0 x1 y1 : Int) : ∀ {p : Int × Int}, p ∈ linePixels x0 y0 x1 y1 →
    2 * ((p.2 - y0) * (x1 - x0) - (p.1 - x0) * (y1 - y0)).natAbs ≤ max (x1 - x0).natAbs (y1 - y0).natAbs := by
  induction x0, y0, x1, y1 using line_induction with
  | gentle x0 y0 x1 y1 h =>
    intro p hp
    rw [h.linePixels_eq] at hp
    obtain ⟨k, -, rfl⟩ := List.mem_map.mp hp
    have hnear := h.linePoint_near k
    omega
  | back x0 y0 x1 y1 ih =>
    intro p hp
    have hnear := ih (linePixels_comm x0 y0 x1 y1 ▸ hp)
    rw [show (p.2 - y1) * (x0 - x1) - (p.1 - x1) * (y0 - y1) = -((p.2 - y0) * (x1 - x0) - (p.1 - x0) * (y1 - y0)) by grind,
      Int.natAbs_neg, natAbs_sub_comm x0, natAbs_sub_comm y0] at hnear
    exact hnear
  | steep x0 y0 x1 y1 h ih =>
    intro p hp
    rw [linePixels_steep h] at hp
    obtain ⟨q, hq, rfl⟩ := List.mem_map.mp hp
    rw [natAbs_sub_comm, Nat.max_comm]
    exact ih hq

end Sys2Proof.Machine

open Sys2Proof Sys2Proof.Machine

/-- Settles O32: each law holds of a line that R131 walks as given, and both exchanges keep it; a line and the line back have the
same list of pixels. -/
theorem lineLaws : Obligations.LineLaws := fun x0 y0 x1 y1 =>
  ⟨length_linePixels .., linePixels_runsBetween .., fun _ _ _ hp hq => linePixels_step x0 y0 x1 y1 hp hq,
    fun p => by rw [linePixels_comm]⟩

/-- Settles O33: the loop's error stays in range, so the rise is within one half of the true line's. -/
theorem linePixelsAreNearest : Obligations.LinePixelsAreNearest := fun x0 y0 x1 y1 _ _ hp => linePixels_near x0 y0 x1 y1 hp
end

section
/-! PROOFS. The laws of a circle outline's pixels, and the counts of a disc's. R135's loop plots the pairs of `circleArc` eightfold, and its
error `f` has a closed form in `px` and `py`, so each turn stays near the circle (R135 to R138). -/

namespace Sys2Proof.Machine

/-! Circles (R135, R136). -/

/-- R135's error `f` at `px`, `py`: not negative where the midpoint of the next turn's two candidates lies outside the circle. -/
def circleError (r px py : Int) : Int := (px + 1) * (px + 1) + py * py - py - r * r

/-- The `py` that R135's turn at `px`, `py` plots with. -/
def nextPy (r px py : Int) : Int := if 0 ≤ circleError r px py then py - 1 else py

/-- The pairs `(px, py)` that R135's loop plots eightfold, from `px`, `py`. -/
def circleArc (r : Int) : Nat → Int → Int → List (Int × Int)
  | 0, _, _ => []
  | n + 1, px, py => if px < py then (px + 1, nextPy r px py) :: circleArc r n (px + 1) (nextPy r px py) else []

/-- The loop's accumulators have closed forms in `px` and `py`. -/
theorem circleWalk_eq_flatMap (cx cy r : Int) (n : Nat) (px py : Int) :
    circleWalk cx cy n (circleError r px py) (2 * px + 1) (-2 * py) px py
      = (circleArc r n px py).flatMap fun p => circleOctants cx cy p.1 p.2 := by
  induction n generalizing px py with
  | zero => rfl
  | succ n ih =>
    rw [circleWalk, circleArc]
    split
    case isFalse => rfl
    rw [List.flatMap_cons, ← ih, nextPy]
    unfold circleError
    split <;> congr 2 <;> grind

theorem circlePixels_eq_append (cx cy : Int) (r : Nat) :
    circlePixels cx cy r = [(cx, cy + r), (cx, cy - r), (cx + r, cy), (cx - r, cy)]
      ++ (circleArc r r 0 r).flatMap fun p => circleOctants cx cy p.1 p.2 := by
  rw [circlePixels, ← circleWalk_eq_flatMap, circleError]
  congr 2
  grind

/-- The offset `(u, v)` is `(p, q)` up to signs and the order of the two. -/
def OctantOf (p q u v : Int) : Prop :=
  (u.natAbs = p.natAbs ∧ v.natAbs = q.natAbs) ∨ (u.natAbs = q.natAbs ∧ v.natAbs = p.natAbs)

theorem mem_circleOctants {cx cy p q u v : Int} : (cx + u, cy + v) ∈ circleOctants cx cy p q ↔ OctantOf p q u v := by
  simp only [circleOctants, OctantOf, List.mem_cons, Prod.mk.injEq, List.not_mem_nil, or_false]
  omega

theorem mem_circlePixels {cx cy u v : Int} {r : Nat} :
    (cx + u, cy + v) ∈ circlePixels cx cy r ↔ ∃ p ∈ (0, (r : Int)) :: circleArc r r 0 r, OctantOf p.1 p.2 u v := by
  have haxis : (cx + u, cy + v) ∈ [(cx, cy + (r : Int)), (cx, cy - r), (cx + r, cy), (cx - r, cy)] ↔ OctantOf 0 r u v := by
    simp only [OctantOf, List.mem_cons, Prod.mk.injEq, List.not_mem_nil, or_false]
    omega
  simp only [circlePixels_eq_append, List.mem_append, haxis, List.mem_flatMap, mem_circleOctants, List.mem_cons, or_and_right,
    exists_or, exists_eq_left]

/-- The squared distance of `(p, q)` from the centre is within `r` of `r * r`. -/
def NearCircle (r : Int) (p : Int × Int) : Prop :=
  r * r - r < p.1 * p.1 + p.2 * p.2 ∧ p.1 * p.1 + p.2 * p.2 ≤ r * r + r

/-- A turn of R135 that keeps `py` goes outward with its midpoint inside the circle, and one that lowers `py` goes inward with its
midpoint outside. -/
theorem NearCircle.next {r px py : Int} (hpx : 0 ≤ px) (hlt : px < py) (hpy : py ≤ r) (h : NearCircle r (px, py)) :
    NearCircle r (px + 1, nextPy r px py) := by
  unfold NearCircle nextPy at *
  dsimp only at *
  split
  case isTrue hout =>
    unfold circleError at hout
    constructor <;> grind
  case isFalse hin =>
    unfold circleError at hin
    constructor <;> grind

theorem circleArc_near {r : Int} (n : Nat) {px py : Int} (hpx : 0 ≤ px) (hpy : py ≤ r) (h : NearCircle r (px, py)) :
    ∀ p ∈ circleArc r n px py, NearCircle r p := by
  induction n generalizing px py with
  | zero => simp [circleArc]
  | succ n ih =>
    rw [circleArc]
    split
    case isFalse => simp
    case isTrue hlt =>
      have hnext := h.next hpx hlt hpy
      have hle : nextPy r px py ≤ r := by
        unfold nextPy
        split <;> omega
      exact List.forall_mem_cons.mpr ⟨hnext, ih (by omega) hle hnext⟩

theorem OctantOf.norm_eq {p q u v : Int} (h : OctantOf p q u v) : u * u + v * v = p * p + q * q := by
  rw [← Int.natAbs_mul_self' u, ← Int.natAbs_mul_self' v, ← Int.natAbs_mul_self' p, ← Int.natAbs_mul_self' q]
  rcases h with ⟨hu, hv⟩ | ⟨hu, hv⟩ <;> rw [hu, hv]
  exact Int.add_comm ..

/-- Every offset of an outline is within half a unit of the radius: `(r - 1/2)^2 < u^2 + v^2 < (r + 1/2)^2` (R136). -/
theorem circlePixels_near {cx cy u v : Int} {r : Nat} (hr : 1 ≤ r) (h : (cx + u, cy + v) ∈ circlePixels cx cy r) :
    NearCircle r (u, v) := by
  obtain ⟨p, hp, hoct⟩ := mem_circlePixels.mp h
  have hstart : NearCircle r (0, (r : Int)) := by
    constructor <;> dsimp only <;> grind
  have hnear : NearCircle r p := List.forall_mem_cons.mpr ⟨hstart, circleArc_near r (Int.le_refl 0) (Int.le_refl r) hstart⟩ p hp
  rwa [NearCircle, hoct.norm_eq]

/-- From radius 2 on the loop's first turn keeps `py`. -/
theorem first_turn_mem_circlePixels (cx cy : Int) {r : Nat} (hr : 2 ≤ r) : (cx + 1, cy + r) ∈ circlePixels cx cy r := by
  obtain ⟨n, rfl⟩ : ∃ n, r = n + 1 := ⟨r - 1, by omega⟩
  have hkeep : nextPy ((n + 1 : Nat) : Int) 0 (n + 1 : Nat) = (n + 1 : Nat) := by
    refine if_neg ?_
    unfold circleError
    grind
  refine mem_circlePixels.mpr ⟨(1, (n + 1 : Nat)), ?_, .inl ⟨rfl, rfl⟩⟩
  rw [circleArc, if_pos (by omega), hkeep]
  simp

/-! Discs (R137, R138). -/

/-- Distinct entries stay distinct under a map that keeps distinct values distinct. -/
theorem nodup_map_of_injective {α β : Type} {f : α → β} (hinj : ∀ a b, f a = f b → a = b) {l : List α} (h : l.Nodup) :
    (l.map f).Nodup :=
  List.Pairwise.map f (fun a b hne heq => hne (hinj a b heq)) h

theorem nodup_diskOffsets (r : Nat) : (diskOffsets r).Nodup :=
  nodup_map_of_injective (fun i j h => by omega) List.nodup_range

/-- The scan visits each candidate once. -/
theorem nodup_diskPixels (cx cy : Int) (r : Nat) : (diskPixels cx cy r).Nodup := by
  refine List.pairwise_flatMap.mpr ⟨fun dy _ => ?_, (nodup_diskOffsets r).imp fun hne => ?_⟩
  · refine nodup_map_of_injective (fun dx dx' heq => ?_) ((nodup_diskOffsets r).filter _)
    have hx := congrArg Prod.fst heq
    dsimp only at hx
    omega
  · intro p hp q hq heq
    obtain ⟨_, -, rfl⟩ := List.mem_map.mp hp
    obtain ⟨_, -, rfl⟩ := List.mem_map.mp hq
    have hy := congrArg Prod.snd heq
    dsimp only at hy
    omega

/-- The number of a disc's pixels does not depend on its centre. -/
theorem length_diskPixels (cx cy : Int) (r : Nat) : (diskPixels cx cy r).length = (diskPixels 0 0 r).length := by
  simp [diskPixels, List.length_flatMap]

end Sys2Proof.Machine

open Sys2Proof Sys2Proof.Machine

/-- Settles O36: the eight maps keep every pair's eight offsets, and each turn of the loop stays within half a unit of the radius. -/
theorem circleOutlineLaws : Obligations.CircleOutlineLaws := by
  refine ⟨fun cx cy r u v h => ?_, fun cx cy r u v hr h => ?_, by decide, by decide⟩
  · obtain ⟨p, hp, hoct⟩ := mem_circlePixels.mp h
    refine ⟨?_, ?_, ?_⟩
    · rw [Int.sub_eq_add_neg]
      exact mem_circlePixels.mpr ⟨p, hp, by rwa [OctantOf, Int.natAbs_neg]⟩
    · rw [Int.sub_eq_add_neg]
      exact mem_circlePixels.mpr ⟨p, hp, by rwa [OctantOf, Int.natAbs_neg]⟩
    · exact mem_circlePixels.mpr ⟨p, hp, by unfold OctantOf at *; omega⟩
  · obtain ⟨hlo, hhi⟩ := circlePixels_near hr h
    dsimp only at hlo hhi
    constructor <;> grind

/-- Settles O38: the counts do not depend on the centre, and the loop's first turn plots an offset outside the disc. -/
theorem discCountsAndOutline : Obligations.DiscCountsAndOutline := by
  refine ⟨fun cx cy => ?_, nodup_diskPixels, fun cx cy r hr => ⟨_, first_turn_mem_circlePixels cx cy hr, fun hmem => ?_⟩⟩
  · simp only [length_diskPixels cx cy]
    rfl
  · have hin := mem_diskPixels.mp hmem
    rw [show cx + 1 - cx = 1 by omega, show cy + (r : Int) - cy = r by omega] at hin
    omega
end

section
/-! PROOFS. Only the two UTF-8 string commands can halt the engine (R250, R255). -/

namespace Sys2Proof.Machine

theorem SameButCells.halted {s t : State} (h : SameButCells s t) : t.halted = s.halted := by rw [h.1]

theorem SameButResult.halted {s t : State} (h : SameButResult s t) : t.halted = s.halted := by rw [h]

theorem SameButLink.halted {s t : State} (h : SameButLink s t) : t.halted = s.halted := by rw [h]

/-- FB_INIT never halts (R110). -/
theorem initSurface_halted (s : State) : s.initSurface.halted = s.halted := by
  rcases initSurface_cases s with ⟨-, h⟩ | ⟨-, -, h⟩ | ⟨-, -, -, h⟩ | ⟨-, -, -, h⟩ <;> rw [h] <;> rfl

/-- Every command but the two UTF-8 string commands leaves `halted`: the drawing commands write cells only, and no other raises. -/
theorem exec_halted {i : Instr} {s t : State} (h : exec i s = .next t)
    (hi : ¬ (i.opcode = .fbDrawStringUtf8 ∨ i.opcode = .fbDrawStringUtf8Scaled)) : t.halted = s.halted := by
  rcases exec_effect h with ⟨-, rfl⟩ | ⟨-, rfl⟩ | ⟨-, hcells⟩ | ⟨hutf8, -⟩ | ⟨-, hresult⟩ | ⟨-, -, v, hlink⟩
    | ⟨-, hlink⟩ | ⟨-, -, hlink⟩ | ⟨-, ⟨-, rfl⟩ | ⟨-, rfl⟩⟩ | ⟨-, rfl⟩ | ⟨-, r, hlink⟩ | ⟨-, v, hlink⟩
  · exact initSurface_halted s
  · rfl
  · exact hcells.halted
  · exact absurd hutf8 hi
  · exact hresult.halted
  · exact hlink.halted
  · exact hlink.halted
  · exact hlink.halted
  · rfl
  · rfl
  · rfl
  · exact hlink.halted
  · exact hlink.halted

end Sys2Proof.Machine

open Sys2Proof Sys2Proof.Machine

/-- Settles O12: a command leaves `halted` or takes MalformedUtf8 (`exec_engineFrame`), and all but two leave it (`exec_halted`). -/
theorem onlyUtf8CommandsRaise : Obligations.OnlyUtf8CommandsRaise := by
  intro i s t hrun h hhalt
  refine ⟨?_, Decidable.byContradiction fun hi => ?_⟩
  · obtain ⟨hsame, -, -⟩ | ⟨-, hcode, -⟩ := (exec_engineFrame h).fault
    · simp [hrun, hhalt] at hsame
    · exact hcode
  · simpa [hrun, hhalt] using exec_halted h hi
end

section
/-! PROOFS. The UTF-8 decoder's outcomes (R161, R162), and the code points of the strings the statements speak of (R170, R171, R177). -/

namespace Sys2Proof.Machine

/-! One code point. -/

section
variable {b0 b1 : Byte} (rest : List Byte)

/-- An ASCII byte is its own code point (R161). -/
theorem utf8Decode_ascii (h : b0.toNat ≤ 0x7F) : utf8Decode (b0 :: rest) = some (BitVec.ofNat 16 b0.toNat, 1) := by
  simp [utf8Decode, h]

/-- The two-byte form joins five bits and six bits (R161, G7). -/
theorem utf8Decode_twoByte (hlo : 0xC2 ≤ b0.toNat) (hhi : b0.toNat ≤ 0xDF) (hlo1 : 0x80 ≤ b1.toNat) (hhi1 : b1.toNat ≤ 0xBF) :
    utf8Decode (b0 :: b1 :: rest) = some (BitVec.ofNat 16 (b0.toNat % 32 * 64 + b1.toNat % 64), 2) := by
  have hbits : ((b0.extractLsb' 0 5).setWidth 16 <<< 6) ||| (b1.extractLsb' 0 6).setWidth 16
      = BitVec.ofNat 16 (b0.toNat % 32 * 64 + b1.toNat % 64) := by
    apply BitVec.eq_of_toNat_eq
    have hlow : b1.toNat % 2 ^ 6 < 2 ^ 6 := Nat.mod_lt _ (by decide)
    simp only [BitVec.toNat_or, BitVec.toNat_shiftLeft, BitVec.toNat_setWidth, BitVec.extractLsb'_toNat, BitVec.toNat_ofNat,
      Nat.shiftRight_zero]
    rw [Nat.mod_eq_of_lt (by omega : b0.toNat % 2 ^ 5 < 2 ^ 16), Nat.mod_eq_of_lt (by omega : b1.toNat % 2 ^ 6 < 2 ^ 16),
      Nat.mod_eq_of_lt (by rw [Nat.shiftLeft_eq]; omega), ← Nat.shiftLeft_add_eq_or_of_lt hlow, Nat.shiftLeft_eq]
    omega
  simp [utf8Decode, hlo, hhi, hlo1, hhi1, hbits, show ¬ b0.toNat ≤ 0x7F by omega]

/-- A byte outside the two ranges starts no form (R161, R162). -/
theorem utf8Decode_badStart (hlo : 0x80 ≤ b0.toNat) (hout : b0.toNat ≤ 0xC1 ∨ 0xE0 ≤ b0.toNat) :
    utf8Decode (b0 :: rest) = none :=
  (if_neg (by omega)).trans (if_neg (by omega))

/-- A start byte without a continuation byte after it is malformed (R161, R162). -/
theorem utf8Decode_badContinuation (hlo : 0xC2 ≤ b0.toNat) (hout : b1.toNat < 0x80 ∨ 0xBF < b1.toNat) :
    utf8Decode (b0 :: b1 :: rest) = none := by
  have hcont : ¬ (0x80 ≤ b1.toNat ∧ b1.toNat ≤ 0xBF) := by omega
  simp [utf8Decode, hcont, show ¬ b0.toNat ≤ 0x7F by omega]

end

/-- A start byte at the string's end is malformed (R161, R162). -/
theorem utf8Decode_truncated {b0 : Byte} (h : 0x80 ≤ b0.toNat) : utf8Decode [b0] = none := by
  simp [utf8Decode, show ¬ b0.toNat ≤ 0x7F by omega]

/-- The two-byte form of an upper part `hi` and six low bits `lo` (R161, G7). -/
theorem utf8Decode_twoByte_ofNat {hi lo : Nat} (hmin : 2 ≤ hi) (hmax : hi < 32) (hlo : lo < 64) (rest : List Byte) :
    utf8Decode (BitVec.ofNat 8 (0xC0 + hi) :: BitVec.ofNat 8 (0x80 + lo) :: rest) = some (BitVec.ofNat 16 (hi * 64 + lo), 2) := by
  have hb0 : (BitVec.ofNat 8 (0xC0 + hi)).toNat = 0xC0 + hi := Nat.mod_eq_of_lt (by omega)
  have hb1 : (BitVec.ofNat 8 (0x80 + lo)).toNat = 0x80 + lo := Nat.mod_eq_of_lt (by omega)
  rw [utf8Decode_twoByte rest (by omega) (by omega) (by omega) (by omega), hb0, hb1]
  congr 3
  omega

/-! Strings. -/

@[simp] theorem codePoints_nil (utf8 : Bool) : codePoints utf8 [] = [] := rfl

/-- A string ends at its first NUL (R170). -/
@[simp] theorem codePoints_nul (utf8 : Bool) (tail : List Byte) : codePoints utf8 (0#8 :: tail) = [] := by
  simp [codePoints, codePointsWithin]

/-- A string taken byte by byte has each byte as a code point (R171). -/
theorem codePoints_byte_cons {b : Byte} (hb : b ≠ 0#8) (rest : List Byte) :
    codePoints false (b :: rest) = some (BitVec.ofNat 16 b.toNat) :: codePoints false rest := by
  have hnext : nextCodePoint false (b :: rest) = some (BitVec.ofNat 16 b.toNat, 1) := by simp [nextCodePoint]
  exact codePoints_cons hb hnext

/-- A decoded string has a leading ASCII byte as its code point (R161). -/
theorem codePoints_ascii_cons {b : Byte} (hb : b ≠ 0#8) (h : b.toNat ≤ 0x7F) (rest : List Byte) :
    codePoints true (b :: rest) = some (BitVec.ofNat 16 b.toNat) :: codePoints true rest := by
  have hnext : nextCodePoint true (b :: rest) = some (BitVec.ofNat 16 b.toNat, 1) := utf8Decode_ascii rest h
  exact codePoints_cons hb hnext

/-- The code points of a string taken byte by byte are its bytes before the first NUL (R170, R171). -/
theorem codePoints_bytes (bytes : List Byte) :
    codePoints false bytes = ((bytes.takeWhile fun b => b ≠ 0#8).map fun b => BitVec.ofNat 16 b.toNat).map some := by
  induction bytes with
  | nil => rfl
  | cons b rest ih =>
    by_cases hb : b = 0#8
    · simp [hb]
    · rw [codePoints_byte_cons hb, ih]
      simp [hb]

/-- Decoding an ASCII string as UTF-8 or byte by byte gives the same code points (R161, R177). -/
theorem codePoints_ascii {bytes : List Byte} (h : ∀ b ∈ bytes, b.toNat < 0x80) : codePoints true bytes = codePoints false bytes := by
  induction bytes with
  | nil => rfl
  | cons b rest ih =>
    obtain ⟨hascii, hrest⟩ := List.forall_mem_cons.mp h
    by_cases hb : b = 0#8
    · simp [hb]
    · rw [codePoints_ascii_cons hb (by omega), codePoints_byte_cons hb, ih hrest]

theorem ofNat_ne_nul {n : Nat} (hpos : 0 < n) (hlt : n < 256) : BitVec.ofNat 8 n ≠ 0#8 := by
  rw [Ne, ← BitVec.toNat_inj, BitVec.toNat_ofNat, Nat.mod_eq_of_lt hlt]
  exact Nat.ne_of_gt hpos

/-- The bytes of one code point decode to it, whatever follows (R161). -/
theorem codePoints_utf8Encode {c : Nat} (hlo : 1 ≤ c) (hhi : c < 0x800) (rest : List Byte) :
    codePoints true (utf8Encode c ++ rest) = some (BitVec.ofNat 16 c) :: codePoints true rest := by
  unfold utf8Encode
  split
  case isTrue hascii =>
    have hb : (BitVec.ofNat 8 c).toNat = c := Nat.mod_eq_of_lt (by omega)
    rw [List.singleton_append, codePoints_ascii_cons (ofNat_ne_nul hlo (by omega)) (by omega), hb]
  case isFalse hwide =>
    have hnext : nextCodePoint true (BitVec.ofNat 8 (0xC0 + c / 64) :: BitVec.ofNat 8 (0x80 + c % 64) :: rest)
        = some (BitVec.ofNat 16 (c / 64 * 64 + c % 64), 2) :=
      utf8Decode_twoByte_ofNat (by omega) (by omega) (Nat.mod_lt _ (by decide)) rest
    rw [Nat.div_add_mod'] at hnext
    exact codePoints_cons (ofNat_ne_nul (by omega) (by omega)) hnext

/-- Encoded code points decode to themselves, up to what follows them (R161, R170). -/
theorem codePoints_flatMap_utf8Encode {cpts : List Nat} (h : ∀ c ∈ cpts, 1 ≤ c ∧ c < 0x800) (rest : List Byte) :
    codePoints true (cpts.flatMap utf8Encode ++ rest) = (cpts.map fun c => some (BitVec.ofNat 16 c)) ++ codePoints true rest := by
  induction cpts with
  | nil => rfl
  | cons c cpts ih =>
    obtain ⟨⟨hlo, hhi⟩, hrest⟩ := List.forall_mem_cons.mp h
    rw [List.flatMap_cons, List.append_assoc, codePoints_utf8Encode hlo hhi, ih hrest, List.map_cons, List.cons_append]

/-- A string is a run of code points, with at most one malformed sequence, at its end (R161). -/
theorem codePointsWithin_cases (utf8 : Bool) (fuel : Nat) (bytes : List Byte) :
    ∃ cpts : List Word, codePointsWithin utf8 fuel bytes = cpts.map some
      ∨ codePointsWithin utf8 fuel bytes = cpts.map some ++ [none] := by
  induction fuel generalizing bytes with
  | zero => exact ⟨[], .inl rfl⟩
  | succ fuel ih =>
    unfold codePointsWithin
    split
    · exact ⟨[], .inl rfl⟩
    · rename_i b rest
      split
      · exact ⟨[], .inl rfl⟩
      · split
        · exact ⟨[], .inr rfl⟩
        · rename_i cpt k _
          obtain ⟨cpts, h | h⟩ := ih ((b :: rest).drop k)
          · exact ⟨cpt :: cpts, .inl (by rw [h, List.map_cons])⟩
          · exact ⟨cpt :: cpts, .inr (by rw [h, List.map_cons, List.cons_append])⟩

end Sys2Proof.Machine

open Sys2Proof Sys2Proof.Machine

/-- Settles O40: the decoder's forms one by one; the Cyrillic range is the two-byte form with its bits joined. -/
theorem utf8DecoderForms : Obligations.Utf8DecoderForms := by
  refine ⟨fun _ rest => utf8Decode_ascii rest, fun _ _ rest => utf8Decode_twoByte rest, fun _ rest => utf8Decode_badStart rest,
    fun _ _ rest hlo _ => utf8Decode_badContinuation rest hlo, fun _ h => utf8Decode_truncated (by omega), fun k hk => ?_,
    fun k hk => ?_⟩
  · have h := utf8Decode_twoByte_ofNat (hi := 16) (lo := 0x10 + k) (by decide) (by decide) (by omega) []
    rwa [← Nat.add_assoc, ← Nat.add_assoc] at h
  · exact utf8Decode_twoByte_ofNat (hi := 17) (by decide) (by decide) (by omega) []

/-- Settles O41: with nothing after the encoded code points, and with a NUL after them. -/
theorem utf8RoundTrip : Obligations.Utf8RoundTrip := fun cpts tail h =>
  ⟨by simpa using codePoints_flatMap_utf8Encode h [], by simpa using codePoints_flatMap_utf8Encode h (0#8 :: tail)⟩
end

section
/-! PROOFS. What `Text` draws of a run of code points (R171, R179), and so what the four string commands draw and when they fault. -/

namespace Sys2Proof.Machine

/-! The room to the right edge (R179). -/

theorem glyphRoom_of_overflow {w x k : Nat} (hk : 0 < k) (h : w < x + 8 * k) : glyphRoom w x k = 0 := Nat.div_eq_of_lt (by omega)

theorem glyphRoom_of_fit {w x k : Nat} (hk : 0 < k) (h : x + 8 * k ≤ w) : glyphRoom w x k = glyphRoom w (x + 8 * k) k + 1 := by
  rw [glyphRoom, glyphRoom, ← Nat.sub_sub, Nat.div_eq_sub_div (by omega) (by omega)]

/-- `Text` draws a run of code points until one overflows the width; if none does, it goes on with what follows the run (R171). -/
theorem textFrom_run (y : Nat) (fg bg : Word) {k : Nat} (hk : 0 < k) (cpts : List Word) (rest : List (Option Word)) (x : Nat)
    (s : State) :
    s.textFrom y fg bg k (cpts.map some ++ rest) x =
      if cpts.length ≤ glyphRoom s.cfg.W.val x k then
        (s.drawGlyphs x y fg bg k cpts).textFrom y fg bg k rest (x + 8 * k * cpts.length)
      else s.drawGlyphs x y fg bg k (cpts.take (glyphRoom s.cfg.W.val x k)) := by
  induction cpts generalizing x s with
  | nil => simp [State.drawGlyphs]
  | cons cpt cpts ih =>
    rw [List.map_cons, List.cons_append, State.textFrom]
    split
    case isTrue hover =>
      simp [glyphRoom_of_overflow hk hover, State.drawGlyphs]
    case isFalse hfit =>
      have hcursor : x + 8 * k + 8 * k * cpts.length = x + 8 * k * (cpt :: cpts).length := by
        rw [List.length_cons, Nat.mul_succ]
        omega
      rw [ih, (blit_sameButCells ..).cfg, hcursor, glyphRoom_of_fit (x := x) hk (by omega), List.take_succ_cons, drawGlyphs_cons,
        drawGlyphs_cons]
      simp only [List.length_cons, Nat.add_le_add_iff_right]

/-- `Text` draws the glyphs of a string without a malformed sequence that fit (R179). -/
theorem text_of_wellFormed {bytes : List Byte} {utf8 : Bool} {cpts : List Word} (h : codePoints utf8 bytes = cpts.map some)
    (x y fg bg : Word) {k : Nat} (hk : 0 < k) (s : State) :
    s.text x y fg bg bytes k utf8 = s.drawGlyphs x.toNat y.toNat fg bg k (cpts.take (glyphRoom s.cfg.W.val x.toNat k)) := by
  rw [State.text, h, ← List.append_nil (cpts.map some), textFrom_run _ _ _ hk]
  split
  case isTrue hfit => rw [List.take_of_length_le hfit, State.textFrom]
  case isFalse => rfl

/-- The strings that are taken byte by byte are drawn at a scale of at least 1 (R85, R175, R176). -/
theorem exec_string {x y fg bg : Word} {bytes : List Byte} {aux : Byte} {i : Instr} {k : Nat} (s : State)
    (hi : (i = .fbDrawString x y fg bg bytes ∧ k = 1)
      ∨ (i = .fbDrawStringScaled x y fg bg bytes aux ∧ k = min (max aux.toNat 1) 8)) :
    0 < k ∧ exec i s = .next (s.text x y fg bg bytes k false) := by
  obtain ⟨rfl, rfl⟩ | ⟨rfl, rfl⟩ := hi
  · exact ⟨by decide, rfl⟩
  · exact ⟨by omega, rfl⟩

/-- The strings that are decoded are drawn at a scale of at least 1 (R85, R177, R178). -/
theorem exec_utf8String {x y fg bg : Word} {bytes : List Byte} {aux : Byte} {i : Instr} {k : Nat} (s : State)
    (hi : (i = .fbDrawStringUtf8 x y fg bg bytes ∧ k = 1)
      ∨ (i = .fbDrawStringUtf8Scaled x y fg bg bytes aux ∧ k = min (max aux.toNat 1) 8)) :
    0 < k ∧ exec i s = .next (s.text x y fg bg bytes k true) := by
  obtain ⟨rfl, rfl⟩ | ⟨rfl, rfl⟩ := hi
  · exact ⟨by decide, rfl⟩
  · exact ⟨by omega, rfl⟩

/-- The state a fault after cell writes leaves (R251). -/
theorem SameButCells.raise_malformedUtf8 {s u : State} (h : SameButCells s u) :
    u.raise .malformedUtf8 = { u with faultCode := 2#8, faultCp := s.cp, halted := true } := by
  rw [← h.engineFrame.cp]
  rfl

end Sys2Proof.Machine

open Sys2Proof Sys2Proof.Machine

/-- Settles O42: the string is a run of code points, its bytes before the NUL. -/
theorem stringDrawsTheGlyphsThatFit : Obligations.StringDrawsTheGlyphsThatFit := by
  intro s x y fg bg bytes aux i k hi
  obtain ⟨hk, hexec⟩ := exec_string s hi
  exact ⟨hexec.trans (congrArg _ (text_of_wellFormed (codePoints_bytes bytes) x y fg bg hk s)), drawGlyphs_sameButCells ..⟩

/-- Settles O43: `Text` on the run of code points, and then on the malformed sequence if the run fits. -/
theorem utf8StringDrawsOrFaults : Obligations.Utf8StringDrawsOrFaults := by
  intro s x y fg bg bytes aux i k hi
  obtain ⟨hk, hexec⟩ := exec_utf8String s hi
  refine ⟨codePointsWithin_cases true _ bytes, fun cpts h => ?_, fun cpts h hfit => ?_, fun cpts h hover => ?_⟩
  · rw [hexec, text_of_wellFormed h x y fg bg hk]
  · rw [hexec, State.text, h, textFrom_run _ _ _ hk, if_pos hfit, State.textFrom,
      (drawGlyphs_sameButCells ..).raise_malformedUtf8]
  · rw [hexec, State.text, h, textFrom_run _ _ _ hk, if_neg (by omega)]

/-- Settles O44: both commands draw the string's code points, which are the same. -/
theorem asciiStringsNeedNoUtf8 : Obligations.AsciiStringsNeedNoUtf8 := by
  intro s x y fg bg bytes scale h
  have htext : ∀ k, s.text x y fg bg bytes k true = s.text x y fg bg bytes k false := fun k => by
    rw [State.text, State.text, codePoints_ascii h]
  exact ⟨congrArg _ (htext 1), congrArg _ (htext (scaleOf scale))⟩
end

section
/-! PROOFS. The packed colour, the bytes of cells and of a frame's chunks, and what each serializer command and CTRL_INIT sends (R190 to
R215, R230); so the statements of 43_serializer.md. -/

namespace Sys2Proof.Machine

/-! The packer (R190). -/

/-- Masking with the byte whose low `n` bits are 0 drops the low `n` bits. -/
theorem getLsbD_and_shiftedOnes (v : Byte) (n k : Nat) :
    (v &&& (BitVec.allOnes 8 <<< n)).getLsbD k = (decide (n ≤ k) && v.getLsbD k) := by
  rcases Nat.lt_or_ge k 8 with hk | hk
  · simp [-BitVec.reduceAllOnes, hk, ← decide_not, Bool.and_comm]
  · simp [v.getLsbD_of_ge k hk]

/-- Masking and shifting the channels is placing their top bits side by side: each bit comes from the one channel whose field it
lies in. -/
theorem rgb565_eq_append (r g b : Byte) : rgb565 r g b = r.extractLsb' 3 5 ++ g.extractLsb' 2 6 ++ b.extractLsb' 3 5 := by
  have hr (k) : (r &&& 0xF8).getLsbD k = (decide (3 ≤ k) && r.getLsbD k) := getLsbD_and_shiftedOnes r 3 k
  have hg (k) : (g &&& 0xFC).getLsbD k = (decide (2 ≤ k) && g.getLsbD k) := getLsbD_and_shiftedOnes g 2 k
  refine BitVec.eq_of_getLsbD_eq fun i hi => ?_
  simp only [rgb565, BitVec.getLsbD_append, BitVec.getLsbD_extractLsb', BitVec.getLsbD_or, BitVec.getLsbD_shiftLeft,
    BitVec.getLsbD_setWidth, BitVec.getLsbD_ushiftRight, hr, hg]
  grind

/-! Cells as bytes (R63, R196). -/

theorem bytesBE_eq (w : Word) : bytesBE w = [BitVec.ofNat 8 (w.toNat / 256), BitVec.ofNat 8 w.toNat] := by
  rw [← bytesBE_ofNat, BitVec.ofNat_toNat, BitVec.setWidth_eq]

theorem packBE_cellRun (s : State) (k m : Nat) : packBE (s.cellRun k m) = s.cellBytes k m := by
  simp only [packBE, State.cellRun, State.cellBytes, List.flatMap_map, bytesBE_eq]

/-- Cells that follow one another are packed one after another. -/
theorem cellBytes_add (s : State) (k m n : Nat) : s.cellBytes k (m + n) = s.cellBytes k m ++ s.cellBytes (k + m) n := by
  simp only [State.cellBytes, List.range_add, List.flatMap_append, List.flatMap_map, Nat.add_assoc]

@[simp] theorem length_cellBytes (s : State) (k m : Nat) : (s.cellBytes k m).length = 2 * m := by
  rw [← packBE_cellRun, length_packBE, length_cellRun]

/-- Cell `i` of a run stands at byte offset `2 * i`. -/
theorem cellBytes_slice (s : State) (k : Nat) {i m : Nat} (hi : i < m) :
    ((s.cellBytes k m).drop (2 * i)).take 2 = bytesBE (s.memRead (k + i)) := by
  obtain ⟨n, rfl⟩ : ∃ n, m = i + (1 + n) := ⟨m - i - 1, by omega⟩
  rw [cellBytes_add, List.drop_left' (length_cellBytes ..), cellBytes_add,
    List.take_left' (i := 2) (length_cellBytes ..), bytesBE_eq]
  rfl

/-! The chunks of a frame (R200, R201). -/

/-- The number of pixels of chunk `j`: they end at `(j + 1) * chunk` or at the frame's end. -/
def chunkSize (chunk j : Nat) : Nat := min ((j + 1) * chunk) 76800 - j * chunk

theorem frameChunks_eq (chunk : Nat) :
    frameChunks chunk = (List.range (chunkCount chunk)).map fun j => (j * chunk, chunkSize chunk j) := by
  refine List.map_congr_left fun j _ => congrArg (Prod.mk _) ?_
  show min chunk (76800 - j * chunk) = chunkSize chunk j
  rw [chunkSize, Nat.succ_mul]
  omega

@[simp] theorem length_frameChunks (chunk : Nat) : (frameChunks chunk).length = chunkCount chunk := by
  rw [frameChunks_eq, List.length_map, List.length_range]

theorem map_chunkSend_frameChunks (s : State) :
    (frameChunks s.cfg.chunkPixels.val).map (chunkSend s) = (List.range (chunkCount s.cfg.chunkPixels.val)).map s.chunkTxn := by
  rw [frameChunks_eq, List.map_map]
  exact List.map_congr_left fun j _ => congrArg (Prod.mk _) (packBE_cellRun ..)

/-- The chunks cover the frame (R201). -/
theorem le_chunkCount_mul (chunk : Dim) : 76800 ≤ chunkCount chunk.val * chunk.val := by
  have hpos := chunk.pos
  have hdiv := Nat.lt_div_mul_add (a := 76800 + chunk.val - 1) hpos
  unfold chunkCount
  omega

/-- The first `n` chunks are the frame's cells up to the end of the last of them. -/
theorem flatMap_chunks (s : State) (chunk n : Nat) :
    ((List.range n).flatMap fun j => s.cellBytes (j * chunk) (chunkSize chunk j)) = s.cellBytes 0 (min (n * chunk) 76800) := by
  induction n with
  | zero => simp [State.cellBytes]
  | succ n ih =>
    rw [List.range_succ, List.flatMap_append, ih, List.flatMap_singleton, chunkSize]
    have hle : n * chunk ≤ (n + 1) * chunk := Nat.mul_le_mul_right _ (Nat.le_succ n)
    rcases Nat.le_total (n * chunk) 76800 with h | h
    · have hend : min ((n + 1) * chunk) 76800 = n * chunk + (min ((n + 1) * chunk) 76800 - n * chunk) := by omega
      rw [Nat.min_eq_left h, hend, cellBytes_add, Nat.zero_add, Nat.add_sub_cancel_left]
    · rw [Nat.min_eq_right h, Nat.min_eq_right (Nat.le_trans h hle), Nat.sub_eq_zero_of_le h]
      simp [State.cellBytes]

/-- All chunks together are the whole frame, row by row. -/
theorem flatMap_frame (s : State) (chunk : Dim) :
    ((List.range (chunkCount chunk.val)).flatMap fun j => s.cellBytes (j * chunk.val) (chunkSize chunk.val j))
      = s.cellBytes 0 76800 := by
  rw [flatMap_chunks, Nat.min_eq_right (le_chunkCount_mul chunk)]

/-! Around a window (R195, R197). -/

/-- The window and the memory write draw five answers. -/
theorem openWindow_sendAnswer (x0 y0 x1 y1 k : Nat) (s : State) : (s.openWindow x0 y0 x1 y1).sendAnswer k = s.sendAnswer (5 + k) :=
  (openWindow_sent x0 y0 x1 y1 s).sendAnswer k

/-- What changes beside the window's sends when `RESULT` is set after them. -/
theorem openWindow_setResult_sameButLink (x0 y0 x1 y1 : Nat) (v : Word) (s : State) :
    SameButLink (s.setResult v) ((s.openWindow x0 y0 x1 y1).setResult v) := by
  have h := openWindow_sameButLink x0 y0 x1 y1 s
  unfold SameButLink at h ⊢
  rw [h]
  rfl

/-! FLUSH (R200 to R202). -/

section
variable {s : State}

theorem flushFrame_noSurface (h : s.bound = false ∨ s.fbAlloc = false) : s.flushFrame = s.setResult 0#16 := if_pos h

theorem flushFrame_surface (hb : s.bound = true) (ha : s.fbAlloc = true) :
    s.flushFrame = (s.openWindow 0 0 239 319).flushChunks (frameChunks s.cfg.chunkPixels.val) := if_neg (by simp [hb, ha])

/-- FLUSH with every chunk answered (R200). -/
theorem flushFrame_all (hb : s.bound = true) (ha : s.fbAlloc = true)
    (hok : ∀ j, j < chunkCount s.cfg.chunkPixels.val → s.sendAnswer (5 + j) = true) :
    s.flushFrame.result = 1#16 ∧ SameButLink (s.setResult 1#16) s.flushFrame
      ∧ Sent s s.flushFrame (setupSends s.cfg 0 0 239 319 ++ (List.range (chunkCount s.cfg.chunkPixels.val)).map s.chunkTxn) := by
  obtain ⟨hres, hlink, hsent⟩ := flushChunks_all (openWindow_sameButLink 0 0 239 319 s) (frameChunks s.cfg.chunkPixels.val)
    fun j hj => (openWindow_sendAnswer ..).trans (hok j (by simpa using hj))
  rw [map_chunkSend_frameChunks] at hsent
  rw [flushFrame_surface hb ha]
  exact ⟨hres, (openWindow_setResult_sameButLink ..).trans hlink, (openWindow_sent ..).trans hsent⟩

/-- FLUSH when chunk `j` is the first to fail (R202). -/
theorem flushFrame_abort (hb : s.bound = true) (ha : s.fbAlloc = true) {j : Nat} (hj : j < chunkCount s.cfg.chunkPixels.val)
    (hok : ∀ i, i < j → s.sendAnswer (5 + i) = true) (hfail : s.sendAnswer (5 + j) = false) :
    s.flushFrame.result = 0#16 ∧ SameButLink (s.setResult 0#16) s.flushFrame
      ∧ Sent s s.flushFrame (setupSends s.cfg 0 0 239 319 ++ (List.range (j + 1)).map s.chunkTxn) := by
  obtain ⟨hres, hlink, hsent⟩ := flushChunks_abort (openWindow_sameButLink 0 0 239 319 s) (frameChunks s.cfg.chunkPixels.val) j
    (by simpa using hj) (fun i hi => (openWindow_sendAnswer ..).trans (hok i hi)) ((openWindow_sendAnswer ..).trans hfail)
  rw [List.map_take, map_chunkSend_frameChunks, ← List.map_take, List.take_range, Nat.min_eq_left hj] at hsent
  rw [flushFrame_surface hb ha]
  exact ⟨hres, (openWindow_setResult_sameButLink ..).trans hlink, (openWindow_sent ..).trans hsent⟩

/-! FLUSH_REGION (R203 to R206). -/

theorem flushRect_noSurface (hno : s.bound = false ∨ s.fbAlloc = false) (x y w h : Nat) : s.flushRect x y w h = s := if_pos hno

theorem flushRect_invalid {x y w h : Nat} (hr : regionValid x y w h = false) : s.flushRect x y w h = s := by
  simp [State.flushRect, hr]

/-- FLUSH_REGION of a valid region: one transaction a row after the window's. -/
theorem flushRect_valid (hb : s.bound = true) (ha : s.fbAlloc = true) {x y w h : Nat} (hr : regionValid x y w h = true) :
    Sent s (s.flushRect x y w h) (setupSends s.cfg x y (x + w - 1) (y + h - 1)
      ++ (List.range h).map fun rr => (.data, s.cellBytes ((y + rr) * 240 + x) w)) := by
  have hrows := flushRows_sent x y w (List.range h) (s.openWindow x y (x + w - 1) (y + h - 1))
  simp only [(openWindow_sameButLink ..).cellRun, packBE_cellRun] at hrows
  have heq : s.flushRect x y w h = (s.openWindow x y (x + w - 1) (y + h - 1)).flushRows x y w (List.range h) := by
    simp [State.flushRect, hb, ha, hr]
  rw [heq]
  exact (openWindow_sent ..).trans hrows

/-! PANEL_WRITE_PIXEL (R214). -/

theorem panelPixel_outside {x y : Nat} (h : 240 ≤ x ∨ 320 ≤ y) (c : Word) : s.panelPixel x y c = s := if_pos h

theorem panelPixel_inside {x y : Nat} (hx : x < 240) (hy : y < 320) (c : Word) :
    Sent s (s.panelPixel x y c) (setupSends s.cfg x y x y ++ [(.data, bytesBE c)]) := by
  have heq : s.panelPixel x y c = (s.openWindow x y x y).sendPixels (bytesBE c) :=
    if_neg (not_or.mpr ⟨Nat.not_le.mpr hx, Nat.not_le.mpr hy⟩)
  rw [heq]
  exact (openWindow_sent ..).trans (sendPixels_sent ..)

end

/-! The pixel data of a log (R215). -/

theorem flatMap_eventData_txns {α : Type} (s : State) (n : Nat) (l : List α) (f : α → List Byte) :
    (s.txns n (l.map fun a => (.data, f a))).flatMap eventData = l.flatMap f := by
  induction l generalizing n with
  | nil => rfl
  | cons a l ih => rw [List.map_cons, State.txns, List.flatMap_cons, List.flatMap_cons, ih, eventData]

/-- What is sent after a window's five transactions is the pixel data. -/
theorem Sent.pixelData {α : Type} {s t : State} {cfg : Config} {x0 y0 x1 y1 : Nat} {l : List α} {f : α → List Byte}
    (h : Sent s t (setupSends cfg x0 y0 x1 y1 ++ l.map fun a => (.data, f a))) :
    ((t.log.drop s.log.length).drop 5).flatMap eventData = l.flatMap f := by
  rw [h.log, List.drop_left, txns_append]
  exact flatMap_eventData_txns ..

theorem panelPixel_pixelData (s : State) {x y : Nat} (hx : x < 240) (hy : y < 320) (c : Word) :
    (((s.panelPixel x y c).log.drop s.log.length).drop 5).flatMap eventData = bytesBE c :=
  Sent.pixelData (l := [c]) (panelPixel_inside hx hy c)

/-- FLUSH with every chunk answered sends the whole surface, row by row (R200, R201). -/
theorem flushFrame_pixelData {s : State} (hb : s.bound = true) (ha : s.fbAlloc = true)
    (hok : ∀ j, j < chunkCount s.cfg.chunkPixels.val → s.sendAnswer (5 + j) = true) :
    ((s.flushFrame.log.drop s.log.length).drop 5).flatMap eventData = s.cellBytes 0 76800 := by
  obtain ⟨-, -, hsent⟩ := flushFrame_all hb ha hok
  exact hsent.pixelData.trans (flatMap_frame s s.cfg.chunkPixels)

/-! CTRL_INIT (R230, R210). -/

/-- After the reset pulse: the set-up commands, and then the cleared panel. -/
theorem initController_sends (s : State) :
    Sent s.pulse s.initController (initSends s.cfg ++ setupSends s.cfg 0 0 239 319
      ++ (List.range (chunkCount s.cfg.chunkPixels.val)).map fun j =>
          (.data, List.replicate (2 * chunkSize s.cfg.chunkPixels.val j) 0#8)) := by
  have hinit := sendAll_sent (initSends s.cfg) s.pulse
  have hregs : Sent s.pulse (((s.pulse.sendAll (initSends s.cfg)).setRot 0#2).setInv true) (initSends s.cfg) := { hinit with }
  have hclear := clearPanel_sent (((s.pulse.sendAll (initSends s.cfg)).setRot 0#2).setInv true)
  have hcfg : (((s.pulse.sendAll (initSends s.cfg)).setRot 0#2).setInv true).cfg = s.cfg := (sendAll_sameButLink _ s.pulse).cfg
  rw [hcfg, frameChunks_eq, List.map_map] at hclear
  rw [List.append_assoc]
  exact { hregs.trans hclear with }

end Sys2Proof.Machine

open Sys2Proof Sys2Proof.Machine

/-- Settles O45: the packer's value is the channels' top bits. -/
theorem packPlacesTheTopBits : Obligations.PackPlacesTheTopBits := fun s r g b =>
  congrArg (fun v => Host.Outcome.next (s.setResult v)) (rgb565_eq_append r g b)

/-- Settles O47: the window, and then the chunk loop with every answer good. -/
theorem flushSendsEveryChunk : Obligations.FlushSendsEveryChunk := by
  intro s hb ha hok
  obtain ⟨hres, hlink, hsent⟩ := flushFrame_all hb ha hok
  exact ⟨_, rfl, hres, hlink, hsent.log⟩

/-- Settles O48: the window, and then the chunk loop up to the failed answer. -/
theorem flushAbortsAtTheFailedChunk : Obligations.FlushAbortsAtTheFailedChunk := by
  intro s j hb ha hj hok hfail
  obtain ⟨hres, hlink, hsent⟩ := flushFrame_abort hb ha hj hok hfail
  exact ⟨_, rfl, hres, hlink, hsent.log⟩

/-- Settles O50: the window, and then the rows. -/
theorem flushRegionSendsEachRow : Obligations.FlushRegionSendsEachRow := by
  intro s x y w h hb ha
  refine ⟨fun hr => ?_, fun hr => ?_⟩
  · exact ⟨_, rfl, flushRect_sameButLink .., (flushRect_valid hb ha (regionValid_iff.mpr hr)).log⟩
  · exact congrArg _ (flushRect_invalid (Bool.eq_false_iff.mpr (mt regionValid_iff.mp hr)))

/-- Settles O51: the window of one pixel, and then the pixel. -/
theorem panelWritePixelSendsOnePixel : Obligations.PanelWritePixelSendsOnePixel := by
  intro s x y c
  refine ⟨fun hx hy => ⟨_, rfl, panelPixel_sameButLink .., ?_⟩, fun hout => congrArg _ (panelPixel_outside hout c)⟩
  rw [← bytesBE_eq]
  exact (panelPixel_inside hx hy c).log

/-- Settles O52: FLUSH sends the whole surface, where the pixel's cell holds the colour; both commands send its two bytes. -/
theorem directAndBufferedPixelAgree : Obligations.DirectAndBufferedPixelAgree := by
  intro s x y c hinv hb ha hx hy hok
  obtain ⟨hw, hh⟩ := fitsPanel_iff.mp (hinv.boundFits hb)
  have hset := plot_sameButCells (coord x) (coord y) c s
  have hlog : (s.plot (coord x) (coord y) c).log = s.log := by rw [hset.1]
  have hcell : (s.plot (coord x) (coord y) c).memRead (0 + (y.toNat * 240 + x.toNat)) = c := by
    rw [memRead_plot hinv.fbWf, if_pos ⟨ha, cellOf_coord_eq_some.mpr ⟨by omega, by omega, by rw [hw, Nat.zero_add]⟩⟩]
  have hframe := flushFrame_pixelData (s := s.plot (coord x) (coord y) c) (by rw [hset.1]; exact hb) (hset.fbAlloc.trans ha)
    fun j hj => (hset.sent.sendAnswer _).trans (by simpa using hok j (hset.cfg ▸ hj))
  refine ⟨_, _, _, _, rfl, rfl, rfl, ?_, panelPixel_pixelData s hx hy c, rfl⟩
  rw [← hlog, hframe, cellBytes_slice _ _ (by omega), hcell]

/-- Settles O53: the pulse, the set-up commands, and the cleared panel. -/
theorem ctrlInitSendsTheSequence : Obligations.CtrlInitSendsTheSequence := by
  intro s
  refine ⟨_, rfl, initController_sameButLink s, ?_⟩
  rw [(initController_sends s).log, txns_pulse, State.pulse_log, List.append_assoc]
  rfl

/-- Settles O46: a transaction's lines are one frame. -/
theorem sendIsOneFrame : Obligations.SendIsOneFrame := by
  intro s kind bytes
  refine ⟨?_, State.send_log ..⟩
  rw [State.lines, State.send_log, List.flatMap_append, List.flatMap_singleton]
  rfl

/-- Settles O49: both commands test the surface first. -/
theorem flushNeedsABoundSurface : Obligations.FlushNeedsABoundSurface := fun _ h =>
  ⟨congrArg _ (flushFrame_noSurface h), fun _ _ _ _ => congrArg _ (flushRect_noSurface h ..)⟩
end

section
/-! PROOFS. The controller's registers: which commands leave `rot` and `bound`, and that no command looks at `rot` (`unseen_rot`, by
`Unseen.exec`); so the statements of 44_controller.md but CTRL_INIT's. -/

namespace Sys2Proof.Machine

/-! FB_INIT and the controller's registers (R110). -/

theorem initSurface_bound (s : State) : s.initSurface.bound = s.bound := by
  rcases initSurface_cases s with ⟨-, h⟩ | ⟨-, -, h⟩ | ⟨-, -, -, h⟩ | ⟨-, -, -, h⟩ <;> rw [h] <;> rfl

theorem initSurface_rot (s : State) : s.initSurface.rot = s.rot := by
  rcases initSurface_cases s with ⟨-, h⟩ | ⟨-, -, h⟩ | ⟨-, -, -, h⟩ | ⟨-, -, -, h⟩ <;> rw [h] <;> rfl

/-! The rotation setting (R241). -/

theorem SameButCells.rot {s t : State} (h : SameButCells s t) : t.rot = s.rot := by rw [h.1]

theorem SameButResult.rot {s t : State} (h : SameButResult s t) : t.rot = s.rot := by rw [h]

theorem SameButLink.rot {s t : State} (h : SameButLink s t) : t.rot = s.rot := by rw [h]

/-- Every command but SET_ROTATION and CTRL_INIT leaves `rot`. -/
theorem exec_rot {i : Instr} {s t : State} (h : exec i s = .next t) (hset : i.opcode ≠ .setRotation) (hinit : i.opcode ≠ .ctrlInit) :
    t.rot = s.rot := by
  rcases exec_effect h with ⟨-, rfl⟩ | ⟨-, rfl⟩ | ⟨-, hcells⟩ | ⟨-, u, hcells, rfl⟩ | ⟨-, hresult⟩ | ⟨-, -, v, hlink⟩
    | ⟨-, hlink⟩ | ⟨ho, -⟩ | ⟨-, ⟨-, rfl⟩ | ⟨-, rfl⟩⟩ | ⟨-, rfl⟩ | ⟨ho, -⟩ | ⟨-, v, hlink⟩
  · exact initSurface_rot s
  · rfl
  · exact hcells.rot
  · exact hcells.rot
  · exact hresult.rot
  · exact hlink.rot
  · exact hlink.rot
  · exact absurd ho hinit
  · rfl
  · rfl
  · rfl
  · exact absurd ho hset
  · exact hlink.rot

/-- `t` differs from `s` at most in `rot`. -/
def SameButRot (s t : State) : Prop := ∃ r, t = { s with rot := r }

/-- No command looks at `rot`: SET_ROTATION and CTRL_INIT only set it. -/
theorem unseen_rot : Unseen SameButRot where
  cfg := by rintro _ _ ⟨_, rfl⟩; rfl
  bound := by rintro _ _ ⟨_, rfl⟩; rfl
  fbAlloc := by rintro _ _ ⟨_, rfl⟩; rfl
  sendAnswer := by rintro _ _ ⟨_, rfl⟩; rfl
  memRead := by rintro _ _ ⟨_, rfl⟩ _; rfl
  memWrite := by rintro _ _ ⟨r, rfl⟩ _ _; exact ⟨r, rfl⟩
  send := by rintro _ _ ⟨r, rfl⟩ _ _; exact ⟨r, rfl⟩
  sendPixels := by rintro _ _ ⟨r, rfl⟩ _; exact ⟨r, rfl⟩
  pulse := by rintro _ _ ⟨r, rfl⟩; exact ⟨r, rfl⟩
  setResult := by rintro _ _ ⟨r, rfl⟩ _; exact ⟨r, rfl⟩
  setBound := by rintro _ _ ⟨r, rfl⟩ _; exact ⟨r, rfl⟩
  setRot := by rintro _ _ ⟨_, rfl⟩ v; exact ⟨v, rfl⟩
  setInv := by rintro _ _ ⟨r, rfl⟩ _; exact ⟨r, rfl⟩
  setReady := by rintro _ _ ⟨r, rfl⟩ _; exact ⟨r, rfl⟩
  dropStore := by rintro _ _ ⟨r, rfl⟩; exact ⟨r, rfl⟩
  raise := by rintro _ _ ⟨r, rfl⟩ _; exact ⟨r, rfl⟩

/-- FB_INIT does not look at `rot` either. -/
theorem initSurface_withRot (s : State) (r : BitVec 2) : { s with rot := r }.initSurface = { s.initSurface with rot := r } := by
  have hans : { s with rot := r }.allocAnswer = s.allocAnswer := rfl
  simp only [State.initSurface, hans]
  repeat' split
  all_goals rfl

/-- Every command keeps two states alike but for `rot` (R241). -/
theorem exec_sameButRot {s t : State} (h : SameButRot s t) (i : Instr) :
    ∃ s' t', exec i s = .next s' ∧ exec i t = .next t' ∧ SameButRot s' t' := by
  by_cases hi : i = .fbInit
  · subst hi
    obtain ⟨r, rfl⟩ := h
    exact ⟨_, _, rfl, rfl, r, initSurface_withRot s r⟩
  · exact unseen_rot.exec h hi

/-! BIND_FB (R236). -/

theorem exec_bindFb_of_fits {s : State} (h : fitsPanel s.cfg = true) :
    exec .bindFb s = .next ((s.setBound true).setResult 1#16) := congrArg _ (if_pos h)

theorem exec_bindFb_of_not_fits {s : State} (h : ¬ fitsPanel s.cfg = true) : exec .bindFb s = .next (s.setResult 0#16) :=
  congrArg _ (if_neg h)

end Sys2Proof.Machine

open Sys2Proof Sys2Proof.Machine

/-- Settles O23: the two runs end alike but for `rot`, and the second one's `rot` is the one it started with unless the command sets it. -/
theorem rotationDoesNotReshape : Obligations.RotationDoesNotReshape := by
  intro i s r
  obtain ⟨t, t', ht, ht', r', rfl⟩ := exec_sameButRot ⟨r, rfl⟩ i
  exact ⟨t, _, ht, ht', rfl, exec_rot ht'⟩

/-- Settles O56: FB_INIT leaves `bound` in each of its cases and FB_RELEASE drops the store only; BIND_FB and UNBIND_FB are among the
commands that keep the surface. -/
theorem bindingAndLifecycleAreIndependent : Obligations.BindingAndLifecycleAreIndependent := by
  intro i s t h
  constructor
  · intro hi
    cases i with
    | fbInit => cases h; exact initSurface_bound s
    | fbRelease => cases h; exact State.dropStore_bound s
    | _ => simp [Instr.opcode] at hi
  · intro hi
    have hother : i.opcode ∉ drawingOpcodes ∧ i.opcode ≠ .fbInit ∧ i.opcode ≠ .fbRelease := by
      revert hi
      cases i.opcode <;> decide
    obtain ⟨hdraw, hinit, hrelease⟩ := hother
    obtain ⟨hdyn, hpool, halloc, hstatic⟩ := exec_sameSurface h hdraw hinit hrelease
    exact ⟨halloc, hstatic, hdyn, hpool⟩

/-- Settles O54: the panel's size is the command's own test. -/
theorem bindNeedsThePanelSize : Obligations.BindNeedsThePanelSize := by
  intro s
  refine ⟨fun hw hh => exec_bindFb_of_fits (fitsPanel_iff.mpr ⟨hw, hh⟩), fun hsize => exec_bindFb_of_not_fits fun hfit => ?_⟩
  obtain ⟨hw, hh⟩ := fitsPanel_iff.mp hfit
  omega

/-- Settles O55: the command is the one write of `bound`. -/
theorem unbindClearsTheBinding : Obligations.UnbindClearsTheBinding := fun _ => rfl

/-- Settles O57: `rot` is set, and then the two transactions are sent. -/
theorem setRotationSendsThePattern : Obligations.SetRotationSendsThePattern := fun s rr =>
  ⟨_, rfl, sendAll_sameButLink _ (s.setRot rr), (sendAll_sent _ (s.setRot rr)).log⟩

/-- Settles O58: `inv` is set, and then the one transaction is sent. -/
theorem setInversionSendsTheCommand : Obligations.SetInversionSendsTheCommand := fun s v =>
  ⟨_, rfl, send_sameButLink _ _ (s.setInv v), (send_sent _ _ (s.setInv v)).log⟩
end

section
/-! PROOFS. The halted engine and the block reset that starts it afresh (R252, R257, R270, R271). -/

namespace Sys2Proof.Machine

/-- Halting is checked before any word is fetched (R80, R252). -/
theorem fetch_of_halted {s : State} (hhalt : s.halted = true) : s.fetch = .halted := by
  simp [State.fetch, hhalt]

/-- After block reset the engine runs with `cp = 0`, so it fetches what the whole stream decodes to (R47, R271). -/
theorem blockReset_fetch {s : State} {i : Instr} (hd : decode s.stream = .ok i) : s.blockReset.fetch = .command i :=
  fetch_of_decode (s := s.blockReset) (r := .ok i) rfl hd nofun

end Sys2Proof.Machine

open Sys2Proof Sys2Proof.Machine

/-- Settles O9: a step begins with the fetch, and a halted engine's fetch stops at once. -/
theorem haltedEngineHasNoStep : Obligations.HaltedEngineHasNoStep := by
  intro s hhalt
  rw [step, fetch_of_halted hhalt]

/-- Settles O14: the reset values do not look at the state before, and the fetch is `blockReset_fetch`. -/
theorem blockResetStartsAfresh : Obligations.BlockResetStartsAfresh :=
  fun _ => ⟨rfl, rfl, rfl, rfl, rfl, rfl, rfl, fun _ => blockReset_fetch⟩
end
